-- ==== Sys2Proof/Word.lean ====
section
/-! DEFINITION. The machine's words: the register width, the byte and character code, the memory cell and the instruction
word (spec/00_scope.md rule R8). All their arithmetic that narrows or widens stands in Machine/Operands.lean. -/

namespace Sys2Proof

/-- The 16-bit pattern of `A`, `X`, `PC` or `SP`, and of an address (`ACC_W`, `IDX_W`, `PC_W`, `SP_W`, `ADDR_W`: R8).
`A` is read signed (`toInt`), the others unsigned (`toNat`). -/
abbrev Word := BitVec 16

/-- An opcode, a character code or a mask (`OPC_W`: R8; R15). -/
abbrev Byte := BitVec 8

/-- One memory cell, `CELL_W` = 32 bits, read signed (`toInt`) (R8, R37). -/
abbrev Cell := BitVec 32

/-- The 24-bit instruction word and the value of `IR` (`INSTR_W`, `IR_W`: R8, R65). -/
abbrev InstrWord := BitVec 24

end Sys2Proof
end

