-- ==== Sys2Proof/Config.lean ====
section
/-! DEFINITION. The implementation parameters of spec/00_scope.md rule R8 that are not widths: each parameter's type with every
alternative the spec describes, and the value the spec gives as its default. A parameter never changes during a run (R9).
`OPCODE_MAP` stands in Decode.lean and `DIGIT_AND` in Machine/Operands.lean. The spec leaves no instruction's result undefined,
so there is no opaque free value. -/

namespace Sys2Proof.Config

/-- `MEM_CELLS`: the number of memory cells, at addresses 0x0000 to 0xFFFF (R8, R37). -/
def memCells : Nat := 65536

/-- The two readings of NOT's clearing step (R92). -/
inductive NotMode where
  /-- The digits are taken before the clearing: the result is `flipd(u)`. -/
  | flipDigits
  /-- The clearing comes first: the result is `flipd(0)`. -/
  | clearFirst
  deriving DecidableEq, Repr

/-- The three readings of SHL X (R93). -/
inductive ShlxMode where
  /-- `X <- u16(A << 1)`, `A` unchanged. -/
  | fromA
  /-- `X <- u16(A << 1)` and `A <- s16(A << 1)`, both from the old `A`. -/
  | fromAWritesBoth
  /-- `X <- u16(X << 1)`. -/
  | fromX
  deriving DecidableEq, Repr

/-- `NOT_MODE` (R8, R92; log 15, UNVERIFIED: the rule is the spec's own decision D11). -/
def notMode : NotMode := .flipDigits

/-- `SHLX_MODE` (R8, R93; log 16, UNVERIFIED: the rule is the spec's own decision D12). -/
def shlxMode : ShlxMode := .fromA

/-- `OR_IS_AND` (R8, R113; log 19, UNVERIFIED: the spec's own decision D15). -/
def orIsAnd : Bool := true

/-- `SEL_A`: the register-select bit's value that selects `A` (R8, R69; log 11, UNVERIFIED: general knowledge the spec marks). -/
def selA : Bool := false

end Sys2Proof.Config
end

