-- ==== Sys2Proof/Syntax.lean ====
section
/-! DEFINITION. The abstract syntax: one constructor per row of spec/opcode_table.json (spec/30_encoding.md rules R68, R72, R73).
Every constructor keeps the 16-bit address field, also where the instruction ignores it (R70), so that no bit of a word is lost. -/

namespace Sys2Proof

/-- The 29 instructions (R72). An opcode outside the table is no instruction (R75): the decoder rejects it. -/
inductive Instr where
  | stop (addr : Word)
  | notA (addr : Word)
  | notX (addr : Word)
  | shlA (addr : Word)
  | shlX (addr : Word)
  | shrA (addr : Word)
  | shrX (addr : Word)
  | rolA (addr : Word)
  | rolX (addr : Word)
  | rorA (addr : Word)
  | rorX (addr : Word)
  | deci (addr : Word)
  | deco (addr : Word)
  | chari (addr : Word)
  | charo (addr : Word)
  | addA (addr : Word)
  | addX (addr : Word)
  | subA (addr : Word)
  | subX (addr : Word)
  | andA (addr : Word)
  | andX (addr : Word)
  | orA (addr : Word)
  | orX (addr : Word)
  | ldrA (addr : Word)
  | ldrX (addr : Word)
  | ldbyte (addr : Word)
  | strA (addr : Word)
  | strX (addr : Word)
  | stbyte (addr : Word)
  deriving DecidableEq, Repr

/-- The address field, the only operand field (R70). -/
def Instr.addr : Instr → Word
  | .stop a | .notA a | .notX a | .shlA a | .shlX a | .shrA a | .shrX a | .rolA a | .rolX a | .rorA a | .rorX a
  | .deci a | .deco a | .chari a | .charo a | .addA a | .addX a | .subA a | .subX a | .andA a | .andX a | .orA a | .orX a
  | .ldrA a | .ldrX a | .ldbyte a | .strA a | .strX a | .stbyte a => a

end Sys2Proof
end

