-- ==== Sys2Proof/WellFormed.lean ====
section
/-! DEFINITION. The well-formedness checks: of the pair of numbers a decoder could form, of an instruction, and of the texts and
numbers from which the host makes what it delivers (spec/30_encoding.md rules R61, R64, R66; spec/60_exceptions.md rule R141). -/

namespace Sys2Proof

/-- An address names one of the 65,536 cells (R43, R44). -/
def addressInRange (n : Nat) : Bool := decide (n < Config.memCells)

/-- An opcode and an address as plain numbers: what the source's decoder splits a line into, before their widths are checked (R39, R62). -/
structure RawInstr where
  opcode : Nat
  address : Nat
  deriving DecidableEq, Repr

/-- 8 bits of opcode and 16 of address (R65): the 20-bit address of the source's wide slice is refused (R66). -/
def RawInstr.wellFormed (r : RawInstr) : Bool := decide (r.opcode < 256) && addressInRange r.address

/-- The operand check of an instruction: its address names a cell. The type of the field admits nothing else, so every term of
`Instr` passes (`Instr.wellFormed_always` in Laws/Decode.lean). -/
def Instr.wellFormed (i : Instr) : Bool := addressInRange i.addr.toNat

/-- A character of `[0-9A-Fa-f]` (R64). -/
def isHexDigit (c : Char) : Bool :=
  (decide ('0' ≤ c) && decide (c ≤ '9')) || (decide ('A' ≤ c) && decide (c ≤ 'F')) || (decide ('a' ≤ c) && decide (c ≤ 'f'))

/-- A text line that becomes an instruction word: exactly 6 characters, all hexadecimal (R61, R64). -/
def lineWellFormed (line : List Char) : Bool := decide (line.length = 6) && line.all isHexDigit

/-- The text of a mask: exactly 8 binary digits (R15, R118). -/
def maskTextWellFormed (text : List Char) : Bool := decide (text.length = 8) && text.all (fun c => c == '0' || c == '1')

/-- A decimal input fits in a cell (R107). -/
def decimalInRange (v : Int) : Bool := decide (-2147483648 ≤ v) && decide (v < 2147483648)

/-- A character code fits in 8 bits (R15, R109); that a typed character's code is its Unicode code point is the model's choice (log 34). -/
def charCodeInRange (n : Nat) : Bool := decide (n < 256)

end Sys2Proof
end

