-- ==== Sys2Proof/Machine/Digits.lean ====
section
/-! DEFINITION. The digit-string primitives of spec/00_scope.md section 6 (rules R17 to R21): strings of binary digits, most
significant first, as lists of Booleans. The transforms are the digit-string operations themselves; their arithmetic forms (R21) are statements. -/

namespace Sys2Proof.Machine

/-- A string of the characters `0` and `1` (R22), `true` for `1`, the most significant digit first (R49). -/
abbrev Digits := List Bool

/-- `val(s)`: the digit string read as an unsigned number (R18). -/
def val (s : Digits) : Nat := s.foldl (fun n d => 2 * n + d.toNat) 0

/-- `bin` with a bound on the number of digits: `u` itself is always enough. -/
def binFuel : Nat → Nat → Digits
  | 0, _ => []
  | f + 1, u => if u = 0 then [] else binFuel f (u / 2) ++ [u % 2 == 1]

/-- `bin(u)`: the minimal digit string of `u`, with no leading zero; `bin(0)` is empty (R19). -/
def bin (u : Nat) : Digits := binFuel u u

/-- `blen(u)` (R20). -/
def blen (u : Nat) : Nat := (bin u).length

/-- The first digit moves to the end (R21, R100). -/
def rotateLeft : Digits → Digits
  | [] => []
  | d :: ds => ds ++ [d]

/-- The last digit moves to the front (R21, R102). -/
def rotateRight (s : Digits) : Digits :=
  match s.getLast? with
  | none => []
  | some d => d :: s.dropLast

/-- `flipd(u)`: every digit of `bin(u)` flipped (R21). -/
def flipd (u : Nat) : Nat := val ((bin u).map (fun d => !d))

/-- `rold(u)`: `bin(u)` rotated left by one digit (R21). -/
def rold (u : Nat) : Nat := val (rotateLeft (bin u))

/-- `rord(u)`: `bin(u)` rotated right by one digit (R21). -/
def rord (u : Nat) : Nat := val (rotateRight (bin u))

/-- The value of a hexadecimal character from its code: the digits begin at code 48, and the letters of either case have 1, 2, … 6
in their low 5 bits, for the values 10 to 15 (R17: case-insensitive). Meaningful for the characters of `isHexDigit` only. -/
def hexCodeValue (code : Nat) : Nat := if code < 58 then code - 48 else code % 32 + 9

/-- The value of one hexadecimal character, either case; `none` for any other character (R17, R64). -/
def hexValue (c : Char) : Option Nat := if isHexDigit c then some (hexCodeValue c.toNat) else none

/-- The 4-digit expansion of a number below 16, most significant digit first (R17). -/
def nibble (n : Nat) : Digits := [n.testBit 3, n.testBit 2, n.testBit 1, n.testBit 0]

/-- `hex2bin(h)`: the 4-digit expansions of the characters, in order; `none` where a character is not hexadecimal (R17, R64). -/
def hex2bin : List Char → Option Digits
  | [] => some []
  | c :: cs =>
    match hexValue c, hex2bin cs with
    | some n, some ds => some (nibble n ++ ds)
    | _, _ => none

end Sys2Proof.Machine
end

