-- ==== Sys2Proof/Decode.lean ====
section
/-! DEFINITION. The instruction decoder and the encoder (spec/30_encoding.md rules R65 to R76), with the classification of the
instructions by register and group (R68), the assembler form (R77) and the table's numbering of words for the host. -/

namespace Sys2Proof

/-! ## The word's fields (R65) -/

/-- `instr[23:16]`. -/
def opcodeOf (w : InstrWord) : Byte := w.extractLsb' 16 8

/-- `instr[15:0]`. -/
def addressOf (w : InstrWord) : Word := w.extractLsb' 0 16

/-- `opc_char[i]`: character `i` of the 8-digit opcode string, counted from the left, is bit `7 - i` (R11). -/
def opcChar (op : Byte) (i : Nat) : Bool := op.getLsbD (7 - i)

/-! ## The opcode map (R72) -/

/-- STOP and the unary register instructions (R72; values log 10, UNVERIFIED but for 0x00). -/
def opcodeMapUnary : List (Byte × (Word → Instr)) := [
  (0x00#8, .stop),
  (0x18#8, .notA), (0x19#8, .notX),
  (0x1C#8, .shlA), (0x1D#8, .shlX),
  (0x1E#8, .shrA), (0x1F#8, .shrX),
  (0x20#8, .rolA), (0x21#8, .rolX),
  (0x22#8, .rorA), (0x23#8, .rorX)]

/-- Decimal and character input and output (R72; 0x30 and 0x38 are the source's own values). -/
def opcodeMapIo : List (Byte × (Word → Instr)) := [
  (0x30#8, .deci), (0x38#8, .deco), (0x48#8, .chari), (0x50#8, .charo)]

/-- Arithmetic, logic, loads and stores (R72; values log 10, UNVERIFIED). -/
def opcodeMapMemory : List (Byte × (Word → Instr)) := [
  (0x70#8, .addA), (0x78#8, .addX),
  (0x80#8, .subA), (0x88#8, .subX),
  (0x90#8, .andA), (0x98#8, .andX),
  (0xA0#8, .orA), (0xA8#8, .orX),
  (0xC0#8, .ldrA), (0xC8#8, .ldrX), (0xD0#8, .ldbyte),
  (0xE0#8, .strA), (0xE8#8, .strX), (0xF0#8, .stbyte)]

/-- `OPCODE_MAP` (R8, R72): 29 rows (R73). -/
def opcodeMap : List (Byte × (Word → Instr)) := opcodeMapUnary ++ opcodeMapIo ++ opcodeMapMemory

/-! ## Decoding (R71, R75) -/

/-- What a word is: an instruction, or an opcode that matches no row, rejected by its value (R75, R88). -/
inductive Decoded where
  | instr (i : Instr)
  | invalidOpcode (op : Byte)
  deriving DecidableEq, Repr

/-- Exact match of all 8 opcode bits with a row of the given `OPCODE_MAP` (R71, R82). -/
def decodeWith (map : List (Byte × (Word → Instr))) (w : InstrWord) : Decoded :=
  match map.find? (fun row => row.1 == opcodeOf w) with
  | some row => .instr (row.2 (addressOf w))
  | none => .invalidOpcode (opcodeOf w)

/-- The decoder, total on every 24-bit word. -/
def decode (w : InstrWord) : Decoded := decodeWith opcodeMap w

/-! ## Encoding (R65, R72) -/

/-- The row's opcode (R72). -/
def Instr.opcode : Instr → Byte
  | .stop _ => 0x00#8
  | .notA _ => 0x18#8
  | .notX _ => 0x19#8
  | .shlA _ => 0x1C#8
  | .shlX _ => 0x1D#8
  | .shrA _ => 0x1E#8
  | .shrX _ => 0x1F#8
  | .rolA _ => 0x20#8
  | .rolX _ => 0x21#8
  | .rorA _ => 0x22#8
  | .rorX _ => 0x23#8
  | .deci _ => 0x30#8
  | .deco _ => 0x38#8
  | .chari _ => 0x48#8
  | .charo _ => 0x50#8
  | .addA _ => 0x70#8
  | .addX _ => 0x78#8
  | .subA _ => 0x80#8
  | .subX _ => 0x88#8
  | .andA _ => 0x90#8
  | .andX _ => 0x98#8
  | .orA _ => 0xA0#8
  | .orX _ => 0xA8#8
  | .ldrA _ => 0xC0#8
  | .ldrX _ => 0xC8#8
  | .ldbyte _ => 0xD0#8
  | .strA _ => 0xE0#8
  | .strX _ => 0xE8#8
  | .stbyte _ => 0xF0#8

/-- A word from its two fields, the opcode in the more significant place (R10, R65). -/
def joinWord (op : Byte) (addr : Word) : InstrWord := op ++ addr

/-- The word of an instruction. -/
def encode (i : Instr) : InstrWord := joinWord i.opcode i.addr

/-! ## How an instruction names its operands (R68) -/

/-- The two operand registers an instruction can name (R32). -/
inductive Reg where
  | A
  | X
  deriving DecidableEq, Repr

/-- The three groups of the operation table (R68). -/
inductive Group where
  /-- U: unary register instructions, select bit `opc_char[7]`. -/
  | unary
  /-- M: register and memory (or mask), select bit `opc_char[4]`. -/
  | memory
  /-- N: no register select. -/
  | noSelect
  deriving DecidableEq, Repr

/-- The group of an instruction (R68, R72). -/
def Instr.group : Instr → Group
  | .notA _ | .notX _ | .shlA _ | .shlX _ | .shrA _ | .shrX _ | .rolA _ | .rolX _ | .rorA _ | .rorX _ => .unary
  | .addA _ | .addX _ | .subA _ | .subX _ | .andA _ | .andX _ | .orA _ | .orX _ | .ldrA _ | .ldrX _ | .strA _ | .strX _ => .memory
  | .stop _ | .deci _ | .deco _ | .chari _ | .charo _ | .ldbyte _ | .stbyte _ => .noSelect

/-- The register the mnemonic names; none in group N, although the byte forms always use `A` (R74, R77). -/
def Instr.reg? : Instr → Option Reg
  | .notA _ | .shlA _ | .shrA _ | .rolA _ | .rorA _ | .addA _ | .subA _ | .andA _ | .orA _ | .ldrA _ | .strA _ => some .A
  | .notX _ | .shlX _ | .shrX _ | .rolX _ | .rorX _ | .addX _ | .subX _ | .andX _ | .orX _ | .ldrX _ | .strX _ => some .X
  | .stop _ | .deci _ | .deco _ | .chari _ | .charo _ | .ldbyte _ | .stbyte _ => none

/-- The register a value of the register-select bit chooses (R69, `SEL_A`). -/
def selectReg (bit : Bool) : Reg := if bit = Config.selA then .A else .X

/-- Does the instruction use its address field (R68)? -/
def Instr.usesAddress : Instr → Bool
  | .deci _ | .deco _ | .chari _ | .charo _ | .addA _ | .addX _ | .subA _ | .subX _ | .ldrA _ | .ldrX _ | .ldbyte _
  | .strA _ | .strX _ | .stbyte _ => true
  | .stop _ | .notA _ | .notX _ | .shlA _ | .shlX _ | .shrA _ | .shrX _ | .rolA _ | .rolX _ | .rorA _ | .rorX _
  | .andA _ | .andX _ | .orA _ | .orX _ => false

/-- The same instruction with another address field. -/
def Instr.withAddr (a : Word) : Instr → Instr
  | .stop _ => .stop a
  | .notA _ => .notA a
  | .notX _ => .notX a
  | .shlA _ => .shlA a
  | .shlX _ => .shlX a
  | .shrA _ => .shrA a
  | .shrX _ => .shrX a
  | .rolA _ => .rolA a
  | .rolX _ => .rolX a
  | .rorA _ => .rorA a
  | .rorX _ => .rorX a
  | .deci _ => .deci a
  | .deco _ => .deco a
  | .chari _ => .chari a
  | .charo _ => .charo a
  | .addA _ => .addA a
  | .addX _ => .addX a
  | .subA _ => .subA a
  | .subX _ => .subX a
  | .andA _ => .andA a
  | .andX _ => .andX a
  | .orA _ => .orA a
  | .orX _ => .orX a
  | .ldrA _ => .ldrA a
  | .ldrX _ => .ldrX a
  | .ldbyte _ => .ldbyte a
  | .strA _ => .strA a
  | .strX _ => .strX a
  | .stbyte _ => .stbyte a

/-! ## The assembler form (R77) -/

/-- The operation's name without its register (R77). -/
def Instr.mnemonic : Instr → String
  | .stop _ => "STOP"
  | .notA _ | .notX _ => "NOT"
  | .shlA _ | .shlX _ => "SHL"
  | .shrA _ | .shrX _ => "SHR"
  | .rolA _ | .rolX _ => "ROL"
  | .rorA _ | .rorX _ => "ROR"
  | .deci _ => "DECI"
  | .deco _ => "DECO"
  | .chari _ => "CHARI"
  | .charo _ => "CHARO"
  | .addA _ | .addX _ => "ADD"
  | .subA _ | .subX _ => "SUB"
  | .andA _ | .andX _ => "AND"
  | .orA _ | .orX _ => "OR"
  | .ldrA _ | .ldrX _ => "LDR"
  | .ldbyte _ => "LDBYTE"
  | .strA _ | .strX _ => "STR"
  | .stbyte _ => "STBYTE"

/-- One upper-case hexadecimal character of a number below 16. -/
def hexChar (n : Nat) : Char := if n < 10 then Char.ofNat (n + 48) else Char.ofNat (n + 55)

/-- The 4 hexadecimal characters of an address. -/
def hexWord (a : Word) : List Char :=
  [hexChar (a.toNat / 4096 % 16), hexChar (a.toNat / 256 % 16), hexChar (a.toNat / 16 % 16), hexChar (a.toNat % 16)]

/-- The four forms of R77: `MNEMONIC`, `MNEMONIC r`, `MNEMONIC r, addr` and `MNEMONIC addr`. -/
def Instr.asm (i : Instr) : String :=
  let address := "0x" ++ String.ofList (hexWord i.addr)
  let name := i.mnemonic
  match i.reg?, i.usesAddress with
  | none, false => name
  | some .A, false => name ++ " A"
  | some .X, false => name ++ " X"
  | some .A, true => name ++ " A, " ++ address
  | some .X, true => name ++ " X, " ++ address
  | none, true => name ++ " " ++ address

/-- The word the assembler form stands for: an ignored address is assembled as `0x0000` (R77; log 33). -/
def assemble (i : Instr) : InstrWord := encode (if i.usesAddress then i else i.withAddr 0x0000#16)

/-! ## The text form of an instruction (R61 to R65) -/

/-- What the host makes of one line of text. -/
inductive LineReading where
  /-- A 24-bit word, to be delivered on `instr`. -/
  | word (w : InstrWord)
  /-- The literal line `-1`: no instruction; it ends an interactive run (R63). -/
  | sentinel
  /-- Not exactly 6 characters long: rejected before the decoder (R61). -/
  | wrongLength
  /-- A character outside `[0-9A-Fa-f]`: refused, no step is taken (R64). -/
  | malformedHex
  deriving DecidableEq, Repr

/-- One line of text (R61 to R65): the opcode is the value of its first 2 characters, the address that of the slice of up to 5
characters from offset 2 (4 of them in a line of 6: R62). The length is checked first (log 30). -/
def readLine (line : List Char) : LineReading :=
  if line = ['-', '1'] then .sentinel
  else if line.length ≠ 6 then .wrongLength
  else
    match Machine.hex2bin (line.take 2), Machine.hex2bin ((line.drop 2).take 5) with
    | some op, some ad => .word (joinWord (BitVec.ofNat 8 (Machine.val op)) (BitVec.ofNat 16 (Machine.val ad)))
    | _, _ => .malformedHex

/-- The 6-character line of a word, in upper case (R65). -/
def hexText (w : InstrWord) : List Char :=
  [hexChar ((opcodeOf w).toNat / 16 % 16), hexChar ((opcodeOf w).toNat % 16)] ++ hexWord (addressOf w)

/-! ## The host's numbering of the table's words -/

/-- The instruction decoded from a word given by its low `nbits` bits, bit 0 the least significant: the table's numbering is that
of the one 24-bit word, and the bits above `nbits` are 0. -/
def decodeTableWord (nbits w : Nat) : Option Instr :=
  match decode (BitVec.ofNat 24 (w % 2 ^ nbits)) with
  | .instr i => some i
  | .invalidOpcode _ => none

end Sys2Proof
end

