-- ==== Sys2Proof/Machine/State.lean ====
section
/-! DEFINITION. The machine's state as plain data (spec/10_state.md), the reasons a step could stop, and the state at reset (R42, R154). -/

namespace Sys2Proof.Machine

/-- The register file, one cohesive unit of five registers (R24). -/
structure Regs where
  /-- The accumulator, read signed (R25). -/
  a : Word
  /-- The index register, unsigned (R26). -/
  x : Word
  /-- The program counter, unsigned: a count of steps (R27). -/
  pc : Word
  /-- The stack pointer, held and never used (R28). -/
  sp : Word
  /-- The instruction register, unsigned; no effect reads it (R29). -/
  ir : InstrWord
  deriving DecidableEq, Repr

/-- Every register 0: what the first step's zero-fill leaves (R79). -/
def Regs.zero : Regs := { a := 0, x := 0, pc := 0, sp := 0, ir := 0 }

/-- The engine state (R34). -/
inductive Mode where
  | uninitialized
  | running
  deriving DecidableEq, Repr

/-- The outcome a completed step reports (R131). -/
inductive Status where
  | ok
  | stop
  | invalidOpcode
  deriving DecidableEq, Repr

/-- The kinds of input a step can wait for: the values of `in_req` (R40). -/
inductive InReq where
  | none
  | dec
  | char
  | mask
  deriving DecidableEq, Repr

/-- One value the core has sent to the host (R150). -/
inductive Output where
  /-- `OutDec(v)`. -/
  | dec (v : Cell)
  /-- `OutChar(c)`. -/
  | char (c : Byte)
  deriving DecidableEq, Repr

/-- Memory: the cells that are not 0, as (address, value), addresses strictly rising; an unlisted cell holds 0 (R37, R38; log 9). -/
abbrev Memory := List (Nat × Cell)

/-- What a cell that is not listed reads as: the zero of the construction (R38, R56). -/
def unlistedCell : Cell := 0#32

/-- The canonical form: addresses strictly rising and inside the array, no entry equal to what an unlisted cell reads as. -/
abbrev Memory.wf (m : Memory) : Prop :=
  m.Pairwise (fun e f => e.1 < f.1) ∧ ∀ e ∈ m, e.1 < Config.memCells ∧ e.2 ≠ unlistedCell

/-- The machine. The first three fields are the architectural state (R24, R34, R37); then the ports (R40); `waiting` and `sent`
are the model's own (logs 4 and 6). -/
structure State where
  /-- The five registers (R24). -/
  regs : Regs
  /-- Uninitialized or Running (R34). -/
  mode : Mode
  /-- The 65,536 cells (R37). -/
  mem : Memory
  /-- The words the host delivers on `instr`, the next one first (R40, R148; log 1). -/
  instrIn : List InstrWord
  /-- The values the host delivers on `in_dec`, the next one first (R40, R149; log 3). -/
  decIn : List Cell
  /-- The character codes the host delivers on `in_char` (R40, R149; log 3). -/
  charIn : List Byte
  /-- The masks the host delivers on `in_mask` (R40, R149; log 3). -/
  maskIn : List Byte
  /-- The instruction whose step waits for an input value, its common part done and its effect not (R105, R141; log 4). -/
  waiting : Option Instr
  /-- `status` of the completed step; none while no step has completed since the last began (R131, R141; log 5). -/
  status : Option Status
  /-- `out_dec` with its valid strobe: what this step sent (R40, R108). -/
  outDec : Option Cell
  /-- `out_char` with its valid strobe: what this step sent (R40, R110). -/
  outChar : Option Byte
  /-- Every value sent to the host so far, oldest first (R150; log 6). -/
  sent : List Output
  deriving DecidableEq, Repr

/-- No step faults: no access, no arithmetic operation and no opcode does (R43, R134, R135). So the type has no constructor. -/
inductive Fault where
  deriving DecidableEq, Repr

/-- Why `exec` could give an instruction no meaning. -/
inductive Refusal where
  /-- An instruction of the table without a meaning, raised by an arm of Machine/Dispatch.lean; safe. No arm raises it. -/
  | notModelled (mnemonic : String)
  deriving DecidableEq, Repr

/-- The answer of a step or of an instruction. -/
abbrev Answer := Host.Outcome State Fault Refusal

/-- The machine right after reset, the construction of the core (R42, R154): `Uninitialized`, every cell 0. The spec gives the
registers no value (DESIGN CHOICE 0, log 7); the host has delivered nothing and received nothing (log 8). -/
def State.reset : State :=
  { regs := Regs.zero, mode := .uninitialized, mem := [],
    instrIn := [], decIn := [], charIn := [], maskIn := [],
    waiting := none, status := none, outDec := none, outChar := none, sent := [] }

end Sys2Proof.Machine
end

