-- ==== Sys2Proof/Machine/Flags.lean ====
section
/-! DEFINITION. The core has no flags and no condition codes (spec/10_state.md rule R33): no result, carry, sign or zero is kept.
The only thing a step reports of its outcome is its status (spec/60_exceptions.md rule R131); its codes and its report stand here. -/

namespace Sys2Proof.Machine

/-- The numeric code of a status (R131; log 23). -/
def Status.code : Status → Nat
  | .ok => 0
  | .stop => 1
  | .invalidOpcode => 2

/-- `report(cond)`: the step completes with this status, and waits for nothing (R15, R131). -/
def State.report (cond : Status) (s : State) : State := { s with status := some cond, waiting := none }

end Sys2Proof.Machine
end

