-- ==== Sys2Proof/Machine/Operands.lean ====
section
/-! DEFINITION. Narrowing and widening (spec/00_scope.md rule R12), the effective address (R70, R122), and the results the
instructions compute from their operands: digit-string operations, shifts, sums and masks (spec/41_unary.md, spec/43_arith_logic.md). -/

namespace Sys2Proof.Machine

/-! ## Narrowing and widening (R12) -/

/-- `s16(v)` as a 16-bit pattern, to be read by `toInt`. -/
def s16 (v : Int) : Word := BitVec.ofInt 16 v

/-- `u16(v)` as a 16-bit pattern, to be read by `toNat`. -/
def u16 (v : Int) : Word := BitVec.ofInt 16 v

/-- `u24(v)`. -/
def u24 (v : Int) : InstrWord := BitVec.ofInt 24 v

/-- `s32(v)` as a 32-bit pattern, to be read by `toInt`. -/
def s32 (v : Int) : Cell := BitVec.ofInt 32 v

/-- `pat16(a)`: the 16-bit pattern of the accumulator, as a number. -/
def pat16 (a : Word) : Nat := a.toNat

/-- `sext_32(a)`. -/
def sext32 (a : Word) : Cell := a.signExtend 32

/-- `zext_32(x)` of a register. -/
def zext32 (x : Word) : Cell := x.zeroExtend 32

/-- `zext_32(c)` of a character code. -/
def zextByte32 (c : Byte) : Cell := c.zeroExtend 32

/-- `zext_16(m)` of a mask. -/
def zextByte16 (m : Byte) : Word := m.zeroExtend 16

/-- `trunc_8(v)` of a cell. -/
def trunc8 (v : Cell) : Byte := v.truncate 8

/-- The effective address, the memory key of the address field: direct, zero-extended, not scaled (R70, R122). -/
def effAddr (addr : Word) : Nat := addr.toNat

/-! ## NOT, ROL, ROR on digit strings (R90 to R92) -/

/-- NOT's result under `NOT_MODE` (R92). -/
def notResult (mode : Config.NotMode) (u : Nat) : Nat :=
  match mode with
  | .flipDigits => flipd u
  | .clearFirst => flipd 0

/-! ## Shifts by one (R96, R98, R99) -/

/-- `v << 1` on an unbounded integer. -/
def shiftLeft1 (v : Int) : Int := v * 2

/-- `v >> 1`, rounding toward minus infinity (R12). -/
def shiftRight1 (v : Int) : Int := v >>> (1 : Nat)

/-! ## AND and OR with the host's mask (R112, R113) -/

/-- `DIGIT_AND(u, m)`, the default: the mask aligned with the 8 least significant bits (R112; log 18). -/
def digitAnd (u : Word) (m : Byte) : Word := u &&& zextByte16 m

/-- OR's result under `OR_IS_AND` (R113). -/
def orResult (isAnd : Bool) (u : Word) (m : Byte) : Word :=
  match isAnd with
  | true => digitAnd u m
  | false => u ||| zextByte16 m

/-! ## Which input an instruction takes (R40, R105) -/

/-- The input a step of the instruction asks for. -/
def inReqOf : Instr → InReq
  | .deci _ => .dec
  | .chari _ => .char
  | .andA _ | .andX _ | .orA _ | .orX _ => .mask
  | .stop _ | .notA _ | .notX _ | .shlA _ | .shlX _ | .shrA _ | .shrX _ | .rolA _ | .rolX _ | .rorA _ | .rorX _
  | .deco _ | .charo _ | .addA _ | .addX _ | .subA _ | .subX _ | .ldrA _ | .ldrX _ | .ldbyte _
  | .strA _ | .strX _ | .stbyte _ => .none

end Sys2Proof.Machine
end

