-- ==== Sys2Proof/Machine/Ops.lean ====
section
/-! DEFINITION. The named operations over memory, registers and ports, the common part of every step, the completion of a step and
the report of an invalid opcode (spec/20_memory.md, spec/40_engine.md section 1, spec/60_exceptions.md). The core takes no
exception and has no return from one (R135, R137): the report of an invalid opcode is all there is of an error (R88). -/

namespace Sys2Proof.Machine

/-! ## Memory (R45, R46, R56) -/

/-- `M[a]`: the listed value, or the zero of an unlisted cell. -/
def Memory.read : Memory → Nat → Cell
  | [], _ => unlistedCell
  | (k, w) :: m, a => if k = a then w else Memory.read m a

/-- A value other than the unlisted one put at its place in the order. -/
def Memory.insert : Memory → Nat → Cell → Memory
  | [], a, v => [(a, v)]
  | (k, w) :: m, a, v =>
    if a < k then (a, v) :: (k, w) :: m
    else if a = k then (a, v) :: m
    else (k, w) :: Memory.insert m a v

/-- `M[a] <- v`: the whole cell is replaced (R45); writing what an unlisted cell reads as removes the entry. -/
def Memory.write (m : Memory) (a : Nat) (v : Cell) : Memory :=
  if v = unlistedCell then m.filter (fun e => e.1 != a) else m.insert a v

/-- `MemRead(a, 1)` (R14). -/
def State.memRead (s : State) (a : Nat) : Cell := s.mem.read a

/-- `MemWrite(a, 1, v)` (R14); the value comes already narrowed to a cell (R46). -/
def State.memWrite (a : Nat) (v : Cell) (s : State) : State := { s with mem := s.mem.write a v }

/-! ## Register writes, each through its narrowing (R13, R30) -/

/-- `A <- v` stores `s16(v)`. -/
def State.writeA (v : Int) (s : State) : State := { s with regs := { s.regs with a := s16 v } }

/-- `X <- v` stores `u16(v)`. -/
def State.writeX (v : Int) (s : State) : State := { s with regs := { s.regs with x := u16 v } }

/-- `PC <- v` stores `u16(v)`. -/
def State.writePC (v : Int) (s : State) : State := { s with regs := { s.regs with pc := u16 v } }

/-- `IR <- v` stores `u24(v)`. -/
def State.writeIR (v : Int) (s : State) : State := { s with regs := { s.regs with ir := u24 v } }

/-- `A` as the number it holds, -32768 to 32767 (R25). -/
def State.valA (s : State) : Int := s.regs.a.toInt

/-- `X` as the number it holds, 0 to 65535 (R26). -/
def State.valX (s : State) : Int := (s.regs.x.toNat : Int)

/-! ## Outputs (R15, R150) -/

/-- `OutDec(v)`. -/
def State.sendDec (v : Cell) (s : State) : State := { s with outDec := some v, sent := s.sent ++ [.dec v] }

/-- `OutChar(c)`. -/
def State.sendChar (c : Byte) (s : State) : State := { s with outChar := some c, sent := s.sent ++ [.char c] }

/-! ## Inputs (R105, R141, R149) -/

/-- The step stops before the instruction's effect and waits for its input (R141): nothing else changes. -/
def State.await (i : Instr) (s : State) : State := { s with waiting := some i }

/-- The effect was carried out: the step completes with `Ok` (R83). -/
def State.complete (s : State) : Answer := .next (s.report .ok)

/-- `let v = InDec()` and then the effect with `v`; the step waits while the host has delivered none (R15, R105). -/
def State.withDec (i : Instr) (effect : Cell → State → State) (s : State) : Answer :=
  match s.decIn with
  | [] => .next (s.await i)
  | v :: rest => (effect v { s with decIn := rest }).complete

/-- `let c = InChar()` and then the effect with `c`; the step waits while the host has delivered none (R15, R105). -/
def State.withChar (i : Instr) (effect : Byte → State → State) (s : State) : Answer :=
  match s.charIn with
  | [] => .next (s.await i)
  | c :: rest => (effect c { s with charIn := rest }).complete

/-- `let m = InMask()` and then the effect with `m`; the step waits while the host has delivered none (R15, R105). -/
def State.withMask (i : Instr) (effect : Byte → State → State) (s : State) : Answer :=
  match s.maskIn with
  | [] => .next (s.await i)
  | m :: rest => (effect m { s with maskIn := rest }).complete

/-- `in_req`: which input the current step waits for (R40, R105). -/
def State.inReq (s : State) : InReq :=
  match s.waiting with
  | none => .none
  | some i => inReqOf i

/-- The `regs` port: the five register values, valid after a completed step (R40, R41, R152; log 28). -/
def State.regsPort (s : State) : Option Regs :=
  match s.status with
  | none => none
  | some _ => some s.regs

/-! ## The common part of the step (R78 to R81) -/

/-- The first step's initialization (R79). -/
def State.zeroFill (s : State) : State := { s with regs := Regs.zero, mode := .running }

/-- `IR <- MemRead(PC, 1)` of every later step, with the `PC` before the increment (R80). -/
def State.loadIR (s : State) : State := s.writeIR (s.memRead s.regs.pc.toNat).toInt

/-- Initialization or IR load, by the mode at the step's start (R79, R80). -/
def State.initOrLoad (s : State) : State :=
  match s.mode with
  | .uninitialized => s.zeroFill
  | .running => s.loadIR

/-- `PC <- PC + 1` (R81). -/
def State.incPC (s : State) : State := s.writePC ((s.regs.pc.toNat : Int) + 1)

/-- A new step begins: its status is not yet set and nothing is sent (R40, R141; log 5). -/
def State.clearPorts (s : State) : State := { s with status := none, outDec := none, outChar := none }

/-- The common part of a step, before dispatch (R78); `rest` is what the host will deliver after this step's word. -/
def State.beginStep (rest : List InstrWord) (s : State) : State :=
  ({ s with instrIn := rest }).initOrLoad.incPC.clearPorts

/-- The instruction port: the next word the host delivers, with the state after the common part of its step; nothing while the
host has delivered none (R78, R148). -/
def State.takeInstr (s : State) : Option (InstrWord × State) :=
  match s.instrIn with
  | [] => none
  | w :: rest => some (w, s.beginStep rest)

/-! ## An opcode outside the map (R88) -/

/-- `report(InvalidOpcode)` and nothing else: no trap is taken, nothing is recorded (R88, R133, R135). -/
def State.invalidOpcode (s : State) : State := s.report .invalidOpcode

/-! ## What the host can do (R148, R149, R153) -/

/-- One delivery of the host. -/
inductive Delivery where
  /-- An instruction word on `instr` (R148). -/
  | instr (w : InstrWord)
  /-- A value on `in_dec` (R149). -/
  | dec (v : Cell)
  /-- A character code on `in_char` (R149). -/
  | char (c : Byte)
  /-- A mask on `in_mask` (R149). -/
  | mask (m : Byte)
  deriving DecidableEq, Repr

/-- The host delivers; it has no other path into the core (R153; log 3). -/
def State.deliver (d : Delivery) (s : State) : State :=
  match d with
  | .instr w => { s with instrIn := s.instrIn ++ [w] }
  | .dec v => { s with decIn := s.decIn ++ [v] }
  | .char c => { s with charIn := s.charIn ++ [c] }
  | .mask m => { s with maskIn := s.maskIn ++ [m] }

end Sys2Proof.Machine
end

