-- ==== Sys2Proof/Machine/ArithLogic.lean ====
section
/-! DEFINITION. ADD, SUB, AND and OR on `A` and `X` (spec/43_arith_logic.md): exact integers, narrowed when the register is written
(R111). AND and OR take an 8-bit mask from the host and ignore the address field. -/

namespace Sys2Proof.Machine

/-- AND A with a mask (R112, R118). -/
def andA (m : Byte) (s : State) : State := s.writeA (digitAnd s.regs.a m).toInt

/-- AND X with a mask (R112, R119). -/
def andX (m : Byte) (s : State) : State := s.writeX (digitAnd s.regs.x m).toNat

/-- OR A with a mask, under `OR_IS_AND` (R113, R120). -/
def orA (isAnd : Bool) (m : Byte) (s : State) : State := s.writeA (orResult isAnd s.regs.a m).toInt

/-- OR X with a mask, under `OR_IS_AND` (R113, R121). -/
def orX (isAnd : Bool) (m : Byte) (s : State) : State := s.writeX (orResult isAnd s.regs.x m).toNat

/-- ADD A (R114). -/
def execAddA (addr : Word) (s : State) : Answer := (s.writeA (s.valA + (s.memRead (effAddr addr)).toInt)).complete

/-- ADD X (R115). -/
def execAddX (addr : Word) (s : State) : Answer := (s.writeX (s.valX + (s.memRead (effAddr addr)).toInt)).complete

/-- SUB A (R116). -/
def execSubA (addr : Word) (s : State) : Answer := (s.writeA (s.valA - (s.memRead (effAddr addr)).toInt)).complete

/-- SUB X (R117). -/
def execSubX (addr : Word) (s : State) : Answer := (s.writeX (s.valX - (s.memRead (effAddr addr)).toInt)).complete

/-- AND A (R118). -/
def execAndA (addr : Word) (s : State) : Answer := s.withMask (.andA addr) andA

/-- AND X (R119). -/
def execAndX (addr : Word) (s : State) : Answer := s.withMask (.andX addr) andX

/-- OR A (R120): under the default it computes AND. -/
def execOrA (addr : Word) (s : State) : Answer := s.withMask (.orA addr) (orA Config.orIsAnd)

/-- OR X (R121): under the default it computes AND. -/
def execOrX (addr : Word) (s : State) : Answer := s.withMask (.orX addr) (orX Config.orIsAnd)

end Sys2Proof.Machine
end

