-- ==== Sys2Proof/Machine/Engine.lean ====
section
/-! DEFINITION. STOP (spec/40_engine.md section 3). The common part of the step and the invalid-opcode path are shared operations in Machine/Ops.lean. -/

namespace Sys2Proof.Machine

/-- STOP (R86): the step reports `Stop`; the core does not halt (90_conflicts.md C1; log 22). The address field is ignored. -/
def execStop (_addr : Word) (s : State) : Answer := .next (s.report .stop)

end Sys2Proof.Machine
end

