-- ==== Sys2Proof/Machine/InputOutput.lean ====
section
/-! DEFINITION. DECI, DECO, CHARI and CHARO (spec/42_io.md). The address field is the cell's address; no register is accessed. -/

namespace Sys2Proof.Machine

/-- DECI (R107): the value is stored whole. -/
def execDeci (addr : Word) (s : State) : Answer := s.withDec (.deci addr) (State.memWrite (effAddr addr))

/-- DECO (R108): the cell's signed value is sent. -/
def execDeco (addr : Word) (s : State) : Answer := (s.sendDec (s.memRead (effAddr addr))).complete

/-- CHARI (R109): the code is stored zero-extended. -/
def execChari (addr : Word) (s : State) : Answer := s.withChar (.chari addr) (fun c t => t.memWrite (effAddr addr) (zextByte32 c))

/-- CHARO (R110): the low 8 bits of the cell are sent. -/
def execCharo (addr : Word) (s : State) : Answer := (s.sendChar (trunc8 (s.memRead (effAddr addr)))).complete

end Sys2Proof.Machine
end

