-- ==== Sys2Proof/Machine/LoadStore.lean ====
section
/-! DEFINITION. LDR, LDBYTE, STR and STBYTE (spec/44_load_store.md): whole cells, no masking; the byte forms move what `A`'s word forms move (R126, R129). -/

namespace Sys2Proof.Machine

/-- LDR A (R124). -/
def execLdrA (addr : Word) (s : State) : Answer := (s.writeA (s.memRead (effAddr addr)).toInt).complete

/-- LDR X (R125). -/
def execLdrX (addr : Word) (s : State) : Answer := (s.writeX (s.memRead (effAddr addr)).toInt).complete

/-- LDBYTE (R126). -/
def execLdbyte (addr : Word) (s : State) : Answer := (s.writeA (s.memRead (effAddr addr)).toInt).complete

/-- STR A (R127). -/
def execStrA (addr : Word) (s : State) : Answer := (s.memWrite (effAddr addr) (sext32 s.regs.a)).complete

/-- STR X (R128). -/
def execStrX (addr : Word) (s : State) : Answer := (s.memWrite (effAddr addr) (zext32 s.regs.x)).complete

/-- STBYTE (R129). -/
def execStbyte (addr : Word) (s : State) : Answer := (s.memWrite (effAddr addr) (sext32 s.regs.a)).complete

end Sys2Proof.Machine
end

