-- ==== Sys2Proof/Machine/Unary.lean ====
section
/-! DEFINITION. NOT, SHL, SHR, ROL and ROR on `A` and `X` (spec/41_unary.md). The address field is ignored; memory is not accessed. -/

namespace Sys2Proof.Machine

/-- NOT A under `NOT_MODE` (R92, R94). -/
def notA (mode : Config.NotMode) (s : State) : State := s.writeA (notResult mode (pat16 s.regs.a))

/-- NOT X under `NOT_MODE` (R92, R95). -/
def notX (mode : Config.NotMode) (s : State) : State := s.writeX (notResult mode s.regs.x.toNat)

/-- SHL X under `SHLX_MODE` (R93, R97): the operand is the accumulator but for `FromX`. -/
def shlX (mode : Config.ShlxMode) (s : State) : State :=
  match mode with
  | .fromA => s.writeX (shiftLeft1 s.valA)
  | .fromAWritesBoth => (s.writeX (shiftLeft1 s.valA)).writeA (shiftLeft1 s.valA)
  | .fromX => s.writeX (shiftLeft1 s.valX)

/-- NOT A (R94). -/
def execNotA (_addr : Word) (s : State) : Answer := (notA Config.notMode s).complete

/-- NOT X (R95). -/
def execNotX (_addr : Word) (s : State) : Answer := (notX Config.notMode s).complete

/-- SHL A (R96). -/
def execShlA (_addr : Word) (s : State) : Answer := (s.writeA (shiftLeft1 s.valA)).complete

/-- SHL X (R97). -/
def execShlX (_addr : Word) (s : State) : Answer := (shlX Config.shlxMode s).complete

/-- SHR A (R98): the sign bit is copied. -/
def execShrA (_addr : Word) (s : State) : Answer := (s.writeA (shiftRight1 s.valA)).complete

/-- SHR X (R99): `X` is unsigned, so a 0 comes in; the quirk of SHL X is not applied. -/
def execShrX (_addr : Word) (s : State) : Answer := (s.writeX (shiftRight1 s.valX)).complete

/-- ROL A (R100). -/
def execRolA (_addr : Word) (s : State) : Answer := (s.writeA (rold (pat16 s.regs.a))).complete

/-- ROL X (R101). -/
def execRolX (_addr : Word) (s : State) : Answer := (s.writeX (rold s.regs.x.toNat)).complete

/-- ROR A (R102). -/
def execRorA (_addr : Word) (s : State) : Answer := (s.writeA (rord (pat16 s.regs.a))).complete

/-- ROR X (R103). -/
def execRorX (_addr : Word) (s : State) : Answer := (s.writeX (rord s.regs.x.toNat)).complete

end Sys2Proof.Machine
end

