-- ==== Sys2Proof/Machine/Dispatch.lean ====
section
/-! DEFINITION. The dispatcher: one arm per instruction, each the instruction's own effect (spec/40_engine.md rule R82), applied after the common part of the step. -/

namespace Sys2Proof.Machine

def exec (i : Instr) (s : State) : Host.Outcome State Fault Refusal :=
  match i with
  | .stop addr => Sys2Proof.Machine.execStop addr s
  | .notA addr => Sys2Proof.Machine.execNotA addr s
  | .notX addr => Sys2Proof.Machine.execNotX addr s
  | .shlA addr => Sys2Proof.Machine.execShlA addr s
  | .shlX addr => Sys2Proof.Machine.execShlX addr s
  | .shrA addr => Sys2Proof.Machine.execShrA addr s
  | .shrX addr => Sys2Proof.Machine.execShrX addr s
  | .rolA addr => Sys2Proof.Machine.execRolA addr s
  | .rolX addr => Sys2Proof.Machine.execRolX addr s
  | .rorA addr => Sys2Proof.Machine.execRorA addr s
  | .rorX addr => Sys2Proof.Machine.execRorX addr s
  | .deci addr => Sys2Proof.Machine.execDeci addr s
  | .deco addr => Sys2Proof.Machine.execDeco addr s
  | .chari addr => Sys2Proof.Machine.execChari addr s
  | .charo addr => Sys2Proof.Machine.execCharo addr s
  | .addA addr => Sys2Proof.Machine.execAddA addr s
  | .addX addr => Sys2Proof.Machine.execAddX addr s
  | .subA addr => Sys2Proof.Machine.execSubA addr s
  | .subX addr => Sys2Proof.Machine.execSubX addr s
  | .andA addr => Sys2Proof.Machine.execAndA addr s
  | .andX addr => Sys2Proof.Machine.execAndX addr s
  | .orA addr => Sys2Proof.Machine.execOrA addr s
  | .orX addr => Sys2Proof.Machine.execOrX addr s
  | .ldrA addr => Sys2Proof.Machine.execLdrA addr s
  | .ldrX addr => Sys2Proof.Machine.execLdrX addr s
  | .ldbyte addr => Sys2Proof.Machine.execLdbyte addr s
  | .strA addr => Sys2Proof.Machine.execStrA addr s
  | .strX addr => Sys2Proof.Machine.execStrX addr s
  | .stbyte addr => Sys2Proof.Machine.execStbyte addr s

end Sys2Proof.Machine
end

