-- ==== Sys2Proof/Machine/Step.lean ====
section
/-! DEFINITION. One step of the machine (spec/40_engine.md rule R78), and the word placed where the next step takes it from.
The host delivers instructions: nothing is fetched from memory (R59, R84; log 1). -/

namespace Sys2Proof.Machine

/-- The one effect of a step, by exact match of the word taken from the `instr` port (R82, R88). -/
def dispatch (w : InstrWord) (s : State) : Answer :=
  match decode w with
  | .instr i => exec i s
  | .invalidOpcode _ => .next s.invalidOpcode

/-- One step. A step that waits for input goes on with its own instruction and no later one begins (R105; log 4); with no word on
the `instr` port the core does nothing (R89; log 2). -/
def step (s : State) : Host.Outcome State Fault Refusal :=
  match s.waiting with
  | some i => exec i s
  | none =>
    match s.takeInstr with
    | none => .next s
    | some (w, t) => dispatch w t

/-- The word put in front of what the host delivers, and no earlier step left waiting: the very next step takes it (log 1). -/
def State.withFetchWord (s : State) (nbits w : Nat) : State :=
  { s with instrIn := BitVec.ofNat 24 (w % 2 ^ nbits) :: s.instrIn, waiting := none }

end Sys2Proof.Machine
end

