-- ==== Sys2Proof/Machine/HostText.lean ====
section
/-! DEFINITION. The texts the host turns into what it delivers and the text of what it receives (spec/30_encoding.md rules R61 to
R64, spec/42_io.md rules R107 and R108, spec/60_exceptions.md rule R141). A text that is not well formed delivers nothing: the state does not change. -/

namespace Sys2Proof.Machine

/-- A line of instruction text: only a well-formed line becomes a delivery (R61, R63, R64). -/
def State.deliverLine (line : List Char) (s : State) : State :=
  match readLine line with
  | .word w => s.deliver (.instr w)
  | .sentinel => s
  | .wrongLength => s
  | .malformedHex => s

/-- The value of an 8-digit binary string, most significant digit first; `none` for any other text (R15, R118). -/
def maskOfText (text : List Char) : Option Byte :=
  if maskTextWellFormed text then some (BitVec.ofNat 8 (val (text.map (fun c => c == '1')))) else none

/-- The mask's text, typed by the user (R118, R141). -/
def State.deliverMaskText (text : List Char) (s : State) : State :=
  match maskOfText text with
  | some m => s.deliver (.mask m)
  | none => s

/-- The decimal digits of `n`, most significant first, at most `f` of them. -/
def decimalDigits : Nat → Nat → List Char
  | 0, _ => []
  | f + 1, n => if n < 10 then [Char.ofNat (48 + n)] else decimalDigits f (n / 10) ++ [Char.ofNat (48 + n % 10)]

/-- The decimal text of a cell, with a leading `-` when it is negative (R15, R108); 10 digits are always enough. -/
def decimalText (v : Cell) : List Char :=
  if v.toInt < 0 then '-' :: decimalDigits 10 v.toInt.natAbs else decimalDigits 10 v.toInt.natAbs

/-- The value of a string of decimal digits, continued from `acc`; `none` at any other character. -/
def digitsValue : Nat → List Char → Option Nat
  | acc, [] => some acc
  | acc, c :: cs => if '0' ≤ c ∧ c ≤ '9' then digitsValue (10 * acc + (c.toNat - 48)) cs else none

/-- The integer a decimal text stands for: an optional `-`, then one or more digits (log 27). -/
def decimalValue (text : List Char) : Option Int :=
  match text with
  | [] => none
  | ['-'] => none
  | '-' :: c :: cs => (digitsValue 0 (c :: cs)).map (fun n => -(n : Int))
  | c :: cs => (digitsValue 0 (c :: cs)).map (fun n => (n : Int))

/-- The value the host delivers for a decimal text: `none` where it is malformed or does not fit in 32 bits (R107, R141). -/
def decOfText (text : List Char) : Option Cell :=
  match decimalValue text with
  | some v => if decimalInRange v then some (s32 v) else none
  | none => none

/-- The user's decimal text (R107, R141). -/
def State.deliverDecText (text : List Char) (s : State) : State :=
  match decOfText text with
  | some v => s.deliver (.dec v)
  | none => s

/-- The user's character (R15, R109). DESIGN CHOICE (log 34): the spec names no character set, only an 8-bit code; the model takes
the character's Unicode code point where that is below 256, and for any other character delivers nothing. -/
def State.deliverCharText (c : Char) (s : State) : State :=
  if charCodeInRange c.toNat then s.deliver (.char (BitVec.ofNat 8 c.toNat)) else s

end Sys2Proof.Machine
end

