-- ==== Sys2Proof/Safety.lean ====
section
/-! DEFINITION. What the statements speak of: what a step leaves unchanged, how an instruction completes, the invariant, and the
states a run can reach when the host delivers what it likes (spec/60_exceptions.md section 6). -/

namespace Sys2Proof.Safety

open Sys2Proof.Machine

/-! ## What is left unchanged -/

/-- Every cell reads as before. -/
def SameMemory (s t : State) : Prop := ∀ a : Nat, t.mem.read a = s.mem.read a

/-- Every cell but `M[ea]` reads as before. -/
def SameMemoryBut (ea : Nat) (s t : State) : Prop := ∀ a : Nat, a ≠ ea → t.mem.read a = s.mem.read a

/-- Nothing is taken from the host's deliveries. -/
def SameInputs (s t : State) : Prop :=
  t.instrIn = s.instrIn ∧ t.decIn = s.decIn ∧ t.charIn = s.charIn ∧ t.maskIn = s.maskIn

/-- Nothing is sent to the host. -/
def SameOutputs (s t : State) : Prop := t.outDec = s.outDec ∧ t.outChar = s.outChar ∧ t.sent = s.sent

/-! ## How an instruction completes -/

/-- The step is completed with this status and waits for nothing (R131). -/
def CompletedWith (cond : Status) (t : State) : Prop := t.status = some cond ∧ t.waiting = none

/-- The frame of an instruction that writes registers only: it completes with `Ok`; mode, memory, deliveries and outputs stay. -/
def RegistersOnly (s t : State) : Prop :=
  CompletedWith .ok t ∧ t.mode = s.mode ∧ SameMemory s t ∧ SameInputs s t ∧ SameOutputs s t

/-- The frame of an instruction that stores to `M[ea]` only: it completes with `Ok`; all five registers, the mode, every other
cell, deliveries and outputs stay. -/
def StoresOnly (ea : Nat) (s t : State) : Prop :=
  CompletedWith .ok t ∧ t.regs = s.regs ∧ t.mode = s.mode ∧ SameMemoryBut ea s t ∧ SameInputs s t ∧ SameOutputs s t

/-- The status a completed step of a decoded word reports (R131). -/
def statusOf : Decoded → Status
  | .invalidOpcode _ => .invalidOpcode
  | .instr i => if i.opcode = 0x00#8 then .stop else .ok

/-- The cell an instruction stores to, by the effective address its meaning uses (R47); none for all others. -/
def storeTarget : Instr → Option Nat
  | .strA a | .strX a | .stbyte a | .deci a | .chari a => some (effAddr a)
  | .stop _ | .notA _ | .notX _ | .shlA _ | .shlX _ | .shrA _ | .shrX _ | .rolA _ | .rolX _ | .rorA _ | .rorX _
  | .deco _ | .charo _ | .addA _ | .addX _ | .subA _ | .subX _ | .andA _ | .andX _ | .orA _ | .orX _
  | .ldrA _ | .ldrX _ | .ldbyte _ => none

/-- The number an instruction's effect stores to its target, from the state in which the effect begins: `A` read signed, `X` read
unsigned, the next value or code the host delivered (R107, R109, R127 to R129); none where it stores nothing or the input is missing. -/
def storedValue : Instr → State → Option Int
  | .strA _, s | .stbyte _, s => some s.valA
  | .strX _, s => some s.valX
  | .deci _, s => s.decIn.head?.map (fun v => v.toInt)
  | .chari _, s => s.charIn.head?.map (fun c => (c.toNat : Int))
  | .stop _, _ | .notA _, _ | .notX _, _ | .shlA _, _ | .shlX _, _ | .shrA _, _ | .shrX _, _ | .rolA _, _ | .rolX _, _
  | .rorA _, _ | .rorX _, _ | .deco _, _ | .charo _, _ | .addA _, _ | .addX _, _ | .subA _, _ | .subX _, _
  | .andA _, _ | .andX _, _ | .orA _, _ | .orX _, _ | .ldrA _, _ | .ldrX _, _ | .ldbyte _, _ => none

/-- Has the host delivered no value of the kind the instruction takes (R105)? -/
def InputMissing (i : Instr) (s : State) : Prop :=
  match inReqOf i with
  | .none => False
  | .dec => s.decIn = []
  | .char => s.charIn = []
  | .mask => s.maskIn = []

/-- Is this delivery of the kind the instruction takes (R149)? -/
def Answers (i : Instr) (d : Delivery) : Prop :=
  match inReqOf i, d with
  | .dec, .dec _ => True
  | .char, .char _ => True
  | .mask, .mask _ => True
  | _, _ => False

/-! ## The invariant -/

/-- What holds at reset and what every step and every delivery keeps: memory in canonical form; `SP` is 0 once the core runs
(R28); before the first step memory is empty and nothing was reported, sent or begun (R42, R154); a step that waits is that of an
input instruction and has reported and sent nothing yet (R141). -/
structure Inv (s : State) : Prop where
  memory : s.mem.wf
  stackPointer : s.mode = .running → s.regs.sp = 0
  unstarted : s.mode = .uninitialized → s.mem = [] ∧ s.waiting = none ∧ s.status = none ∧ s.sent = []
  waiting : ∀ i, s.waiting = some i → inReqOf i ≠ .none ∧ s.status = none ∧ s.outDec = none ∧ s.outChar = none

/-- The states a run can reach: from reset, by steps of the core and deliveries of the host (R153). -/
inductive Reachable : State → Prop where
  | reset : Reachable State.reset
  | step {s t : State} : Reachable s → step s = .next t → Reachable t
  | deliver {s : State} (d : Delivery) : Reachable s → Reachable (s.deliver d)

end Sys2Proof.Safety
end

