-- ==== Sys2Proof/Certificates/Slice0/Obligations.lean ====
section
/-! DEFINITION. The statements for the provers. Each docstring names the rule of the spec it formalises, or the decisions of
spec/92_eei_decisions.md and the log entries it rests on. The opcode values other than 0x00, 0x30 and 0x38 are those of rule R72, which
the spec marks as general knowledge (D3; log 10). -/

open Sys2Proof Sys2Proof.Machine Sys2Proof.Safety

/-! ## Encoding -/

/-- Decode and encode agree, for every instruction and every operand: no bit of an encoding is dropped (30_encoding.md sections 2 and 4). -/
def Obligations.DecodeEncodeRoundTrip : Prop :=
  ∀ i : Instr, decode (encode i) = .instr i

/-- The other direction, for every 24-bit word: an instruction's word is encoded back, and a rejected word, rejected under its own
opcode, is no instruction's encoding. -/
def Obligations.EncodeDecodeRoundTrip : Prop :=
  ∀ w : InstrWord, match decode w with
    | .instr i => encode i = w
    | .invalidOpcode op => op = opcodeOf w ∧ ∀ i : Instr, encode i ≠ w

/-- Words written out from the spec's encodings, one or more of every family, decode to what they stand for; `0xD8` and `0x71` are
invalid (R72, R74, R88; log 10). -/
def Obligations.SampleWordsDecode : Prop :=
  decode 0b000000000000000000000000#24 = .instr (.stop 0x0000#16) ∧
  decode 0b000111010000000000000111#24 = .instr (.shlX 0x0007#16) ∧
  decode 0b001100001111111111111110#24 = .instr (.deci 0xFFFE#16) ∧
  decode 0b011100000000000000010000#24 = .instr (.addA 0x0010#16) ∧
  decode 0b111010000000000100000001#24 = .instr (.strX 0x0101#16) ∧
  decode 0b110110000000000000000101#24 = .invalidOpcode 0xD8#8 ∧
  decode 0b011100010000000000000101#24 = .invalidOpcode 0x71#8

/-- R71: dispatch is by exact match. A word is an instruction exactly when its 8 opcode bits are one row's value of `OPCODE_MAP`, then
that instruction's own value; any other word is rejected, among them every group M opcode with low bits other than `000`. -/
def Obligations.ExactOpcodeMatch : Prop :=
  (∀ w i, decode w = .instr i → opcodeOf w = i.opcode ∧ addressOf w = i.addr) ∧
  (∀ w : InstrWord, (∃ i, decode w = .instr i) ↔ opcodeOf w ∈ opcodeMap.map Prod.fst) ∧
  (∀ w : InstrWord, (∀ i, decode w ≠ .instr i) → decode w = .invalidOpcode (opcodeOf w)) ∧
  (∀ (i : Instr) (low : BitVec 3) (addr : Word), i.group = .memory → low ≠ 0 →
    decode (joinWord (i.opcode ||| low.zeroExtend 8) addr) = .invalidOpcode (i.opcode ||| low.zeroExtend 8))

/-- The register-select bit: `opc_char[7]` in group U, `opc_char[4]` in group M, names the mnemonic's register; group N names none
(R68, R69, R11; the polarity is decision D4, log 11). -/
def Obligations.RegisterSelectBit : Prop :=
  ∀ i : Instr,
    (i.group = .unary → i.reg? = some (selectReg (opcChar (opcodeOf (encode i)) 7))) ∧
    (i.group = .memory → i.reg? = some (selectReg (opcChar (opcodeOf (encode i)) 4))) ∧
    (i.group = .noSelect → i.reg? = none)

/-- R17: `hex2bin` maps each hexadecimal character, either case, to its 4 digits and concatenates; 4n digits for n valid characters; any other character is an error. -/
def Obligations.HexDigitStrings : Prop :=
  (∀ h : List Char, (∀ c ∈ h, isHexDigit c = true) → ∃ d, hex2bin h = some d ∧ d.length = 4 * h.length) ∧
  (∀ h : List Char, (∃ c ∈ h, isHexDigit c = false) → hex2bin h = none) ∧
  (∀ (h k : List Char) (d e : Digits), hex2bin h = some d → hex2bin k = some e → hex2bin (h ++ k) = some (d ++ e)) ∧
  (∀ n : Nat, n < 16 → ∃ d, hex2bin [hexChar n] = some d ∧ hex2bin [(hexChar n).toLower] = some d ∧ d.length = 4 ∧ val d = n)

/-- The 6 characters of a word, in upper or lower case, read back as that word (R61, R62, R65; decision D1, log 26). -/
def Obligations.TextLineRoundTrip : Prop :=
  ∀ w : InstrWord, readLine (hexText w) = .word w ∧ readLine ((hexText w).map Char.toLower) = .word w

/-- A line that is not 6 hexadecimal characters changes nothing, so no step is taken for it; any other line delivers one word (R61,
R63, R64; decision D1, log 26). -/
def Obligations.OnlyWellFormedLinesAreDelivered : Prop :=
  ∀ (line : List Char) (s : State),
    (lineWellFormed line = false → s.deliverLine line = s) ∧
    (lineWellFormed line = true → ∃ w, s.deliverLine line = s.deliver (.instr w))

/-! ## Digit strings -/

/-- R19: `bin(u)` is the minimal digit string of `u`: empty for 0, first digit 1 otherwise, with value `u`; and it is the only digit
string with a first digit 1 and that value. -/
def Obligations.MinimalDigitString : Prop :=
  bin 0 = [] ∧ (∀ u, val (bin u) = u) ∧ (∀ u, 0 < u → (bin u).head? = some true) ∧
  (∀ d : Digits, d.head? = some true → bin (val d) = d)

/-- `blen` (00_scope.md rule R20, an inference of the spec from R19). -/
def Obligations.DigitLengthBounds : Prop :=
  blen 0 = 0 ∧ (∀ u, 0 < u → 2 ^ (blen u - 1) ≤ u ∧ u < 2 ^ blen u) ∧ (∀ x : Word, blen x.toNat ≤ 16)

/-- The digit-string operations equal their arithmetic forms, for every integer (00_scope.md rule R21, an inference of the spec). -/
def Obligations.DigitTransformsAreArithmetic : Prop :=
  ∀ u : Nat,
    flipd u = (2 ^ blen u - 1) - u ∧
    rold u = (if blen u = 0 then 0 else ((u <<< 1) % 2 ^ blen u) ||| 1) ∧
    rord u = (if blen u = 0 then 0 else (u >>> 1) ||| ((u &&& 1) <<< (blen u - 1)))

/-- The rotate inverse law with its exact condition: no leading digit is lost (41_unary.md rule R104, an inference of the spec). -/
def Obligations.RotateInverseLaw : Prop :=
  ∀ u : Nat,
    (rord (rold u) = u ↔ (blen u ≤ 1 ∨ (bin u)[1]? = some true)) ∧
    (rord (rold u) = u ↔ (blen u ≤ 1 ∨ 3 * 2 ^ (blen u - 2) ≤ u))

/-- The law on the machine: ROL then ROR on one register restores it exactly under that condition, and the pattern of a negative `A` is no exception. -/
def Obligations.RotateLeftThenRightOnRegisters : Prop :=
  ∀ (s : State) (a b : Word),
    (∃ t u, exec (.rolA a) s = .next t ∧ exec (.rorA b) t = .next u ∧
      (u.regs.a = s.regs.a ↔ (blen s.regs.a.toNat ≤ 1 ∨ 3 * 2 ^ (blen s.regs.a.toNat - 2) ≤ s.regs.a.toNat))) ∧
    (∃ t u, exec (.rolX a) s = .next t ∧ exec (.rorX b) t = .next u ∧
      (u.regs.x = s.regs.x ↔ (blen s.regs.x.toNat ≤ 1 ∨ 3 * 2 ^ (blen s.regs.x.toNat - 2) ≤ s.regs.x.toNat)))

/-! ## The engine -/

/-- Reset: `Uninitialized`, every cell 0 (70_reset_and_hazards.md section 1), and no status, output, request or valid `regs` port before a step
completes (the model's choice: logs 8 and 28). -/
def Obligations.ResetState : Prop :=
  State.reset.mode = .uninitialized ∧ (∀ a, State.reset.memRead a = 0#32) ∧ State.reset.mem.wf ∧
  State.reset.status = none ∧ State.reset.inReq = .none ∧ State.reset.regsPort = none ∧ State.reset.sent = []

/-- A step runs the decoded instruction: with no step waiting, the next word on the port, when it decodes, is executed after the
common part of the step; a waiting step goes on with its own instruction (R78, R82; log 4). -/
def Obligations.StepRunsDecodedInstruction : Prop :=
  (∀ (s : State) (w : InstrWord) (rest : List InstrWord) (i : Instr),
    s.waiting = none → s.instrIn = w :: rest → decode w = .instr i → i.wellFormed = true ∧ step s = exec i (s.beginStep rest)) ∧
  (∀ (s : State) (i : Instr), s.waiting = some i → step s = exec i s)

/-- R79, R155: the first step zero-fills the registers whatever they and the memory held, does not load `IR`, changes no memory, sets
`Running`, and goes on with the `PC` increment and dispatch: when the effect begins, `A = X = SP = IR = 0` and `PC = 1`. -/
def Obligations.FirstStepZeroFills : Prop :=
  ∀ (s : State) (w : InstrWord) (rest : List InstrWord),
    s.mode = .uninitialized → s.waiting = none → s.instrIn = w :: rest →
    ∃ b : State, step s = dispatch w b ∧ b.regs = { a := 0, x := 0, pc := 1, sp := 0, ir := 0 } ∧ b.mode = .running ∧
      SameMemory s b ∧ b.instrIn = rest

/-- Every step with `Running` at its start, whatever its word, loads `IR = u24(M[PC])` with the `PC` before the increment and then
increments `PC` modulo 2^16; `SP` stays (40_engine.md section 1; decisions D31 and D9, logs 12 and 24). -/
def Obligations.RunningStepLoadsIRAndCountsPC : Prop :=
  ∀ (s : State) (w : InstrWord) (rest : List InstrWord),
    s.mode = .running → s.waiting = none → s.instrIn = w :: rest →
    ∃ t : State, step s = .next t ∧ (t.regs.ir.toNat : Int) = (s.mem.read s.regs.pc.toNat).toInt % 16777216 ∧
      t.regs.pc.toNat = (s.regs.pc.toNat + 1) % 65536 ∧ t.regs.sp = s.regs.sp ∧ t.mode = .running ∧ t.instrIn = rest

/-- No instruction's effect writes `PC`, `SP`, `IR` or `mode`, or takes an instruction word (10_state.md sections 1 and 3, 40_engine.md section 2). -/
def Obligations.EffectsKeepPCSPIRAndMode : Prop :=
  ∀ (i : Instr) (s : State), ∃ t : State, exec i s = .next t ∧ t.regs.pc = s.regs.pc ∧ t.regs.sp = s.regs.sp ∧
    t.regs.ir = s.regs.ir ∧ t.mode = s.mode ∧ t.instrIn = s.instrIn

/-- No instruction's effect reads `PC`, `SP` or `IR`: with other values there it does the same and leaves those values (10_state.md section 1). -/
def Obligations.EffectsIgnorePCSPAndIR : Prop :=
  ∀ (i : Instr) (s t : State) (pc sp : Word) (ir : InstrWord), exec i s = .next t →
    exec i { s with regs := { s.regs with pc := pc, sp := sp, ir := ir } } =
      .next { t with regs := { t.regs with pc := pc, sp := sp, ir := ir } }

/-- STOP reports `Stop` and does nothing else; as the first step it still zero-fills; the core does not halt and executes the
next instruction the host delivers. That STOP does not halt is a choice the rule marks as its own (40_engine.md section 3;
90_conflicts.md C1, decision D20, log 22); the opcode 0x00 is the source's. -/
def Obligations.StopOnlyReportsStop : Prop :=
  (∀ (addr : Word) (s : State), decode (joinWord 0x00#8 addr) = .instr (.stop addr) ∧
    ∃ t : State, exec (.stop addr) s = .next t ∧ CompletedWith .stop t ∧ t.regs = s.regs ∧ t.mode = s.mode ∧
      SameMemory s t ∧ SameInputs s t ∧ SameOutputs s t) ∧
  (∀ (s : State) (addr : Word) (w : InstrWord) (rest : List InstrWord),
    s.waiting = none → s.instrIn = joinWord 0x00#8 addr :: w :: rest →
    ∃ t : State, step s = .next t ∧ t.status = some .stop ∧ t.mode = .running ∧
      (s.mode = .uninitialized → t.regs = { a := 0, x := 0, pc := 1, sp := 0, ir := 0 }) ∧
      step t = dispatch w (t.beginStep rest))

/-- An opcode that matches no row reports `InvalidOpcode`; `PC` is incremented, `IR` loaded (the first step zero-fills instead),
and no other register, no cell and no output changes; no trap is taken: the step answers a next state
(40_engine.md section 4). That `IR` is loaded from `PC` before the increment is decision D31 (log 24), and that `PC` wraps is decision
D9 (log 12). -/
def Obligations.InvalidOpcodeOnlyReports : Prop :=
  (∀ op : Byte, op ∈ [0x71#8, 0xD8#8, 0xF8#8] → op ∉ opcodeMap.map Prod.fst) ∧
  (∀ (i : Instr) (low : BitVec 3), i.group = .memory → low ≠ 0 →
    (i.opcode ||| low.zeroExtend 8) ∉ opcodeMap.map Prod.fst) ∧
  ∀ (s : State) (w : InstrWord) (rest : List InstrWord),
    s.waiting = none → s.instrIn = w :: rest → opcodeOf w ∉ opcodeMap.map Prod.fst →
    ∃ t : State, step s = .next t ∧ CompletedWith .invalidOpcode t ∧ t.mode = .running ∧ SameMemory s t ∧
      (s.mode = .uninitialized → t.regs = { a := 0, x := 0, pc := 1, sp := 0, ir := 0 }) ∧
      (s.mode = .running → t.regs.a = s.regs.a ∧ t.regs.x = s.regs.x ∧ t.regs.sp = s.regs.sp ∧
        (t.regs.ir.toNat : Int) = (s.mem.read s.regs.pc.toNat).toInt % 16777216 ∧
        t.regs.pc.toNat = (s.regs.pc.toNat + 1) % 65536) ∧
      t.instrIn = rest ∧ t.decIn = s.decIn ∧ t.charIn = s.charIn ∧ t.maskIn = s.maskIn ∧ t.sent = s.sent

/-- Every completed step sets exactly the status of its word, by the table's codes, and makes the `regs` port valid; a step that
waits sets none; a step that waits, STOP and an invalid opcode leave both outputs not valid (60_exceptions.md section 1; decisions D21
and D23, logs 5, 23 and 28). -/
def Obligations.StatusOfCompletedStep : Prop :=
  Status.code .ok = 0 ∧ Status.code .stop = 1 ∧ Status.code .invalidOpcode = 2 ∧
  (∀ (s : State) (w : InstrWord) (rest : List InstrWord), s.waiting = none → s.instrIn = w :: rest →
    ∃ t : State, step s = .next t ∧
      (t.waiting = none → t.status = some (statusOf (decode w)) ∧ t.regsPort = some t.regs) ∧
      (t.waiting ≠ none → t.status = none ∧ t.regsPort = none) ∧
      (t.waiting ≠ none ∨ statusOf (decode w) ≠ .ok → t.outDec = none ∧ t.outChar = none))

/-- R34: `mode` is `Uninitialized` at reset, becomes `Running` in the first step, and never changes back. -/
def Obligations.ModeChangesOnce : Prop :=
  State.reset.mode = .uninitialized ∧
  (∀ (s : State) (w : InstrWord) (rest : List InstrWord), s.waiting = none → s.instrIn = w :: rest →
    ∃ t : State, step s = .next t ∧ t.mode = .running) ∧
  (∀ s t : State, s.mode = .running → step s = .next t → t.mode = .running) ∧
  (∀ (s : State) (d : Delivery), (s.deliver d).mode = s.mode)

/-- No trap, fault or refusal: every instruction and every step answers a next state (60_exceptions.md sections 1 and 2). -/
def Obligations.EveryStepAnswersNext : Prop :=
  (∀ (i : Instr) (s : State), ∃ t : State, exec i s = .next t) ∧ (∀ s : State, ∃ t : State, step s = .next t)

/-- The register values before the first step cannot be observed: the first step gives the same state whatever they are
(70_reset_and_hazards.md rule R157, an inference of the spec). So no result rests on the model's choice of them (log 7). -/
def Obligations.ResetRegistersUnobservable : Prop :=
  ∀ (s : State) (r : Regs), s.mode = .uninitialized → s.waiting = none → s.instrIn ≠ [] →
    step { s with regs := r } = step s

/-- An operation that ignores the address field does so for every value of it, with its input delivered where it takes one (30_encoding.md section 3). -/
def Obligations.IgnoredAddressHasNoEffect : Prop :=
  ∀ (i : Instr) (a : Word) (s : State), i.usesAddress = false → ¬ InputMissing i s → exec (i.withAddr a) s = exec i s

/-! ## Waiting for input -/

/-- Exactly DECI, CHARI, AND and OR block until the host delivers a value: while it has not, `in_req` shows which, nothing else
changes and no later step begins; and the step resumes and completes when the host delivers
(42_io.md section 1). That `exec` answers a waiting state, that further steps answer the same state, and that the next step resumes, is
the model's form of the wait (log 4); that no effect has happened yet is decision D23. -/
def Obligations.InputInstructionsBlock : Prop :=
  (∀ i : Instr, inReqOf i ≠ .none ↔ ∃ addr : Word, i = .deci addr ∨ i = .chari addr ∨ i = .andA addr ∨ i = .andX addr ∨
    i = .orA addr ∨ i = .orX addr) ∧
  (∀ (i : Instr) (s : State), InputMissing i s →
    ∃ t : State, exec i s = .next t ∧ t.inReq = inReqOf i ∧ t.regs = s.regs ∧ t.mode = s.mode ∧ SameMemory s t ∧
      SameInputs s t ∧ SameOutputs s t ∧ t.status = s.status ∧ step t = .next t ∧
      ∀ d : Delivery, Answers i d → ∃ u : State, step (t.deliver d) = .next u ∧ CompletedWith .ok u ∧ u.inReq = .none)

/-- A value delivered late gives what it would have given delivered before the step: nothing is lost or done twice by waiting
(60_exceptions.md section 4; decision D23, logs 3, 4 and 27). -/
def Obligations.LateInputGivesSameResult : Prop :=
  ∀ (s : State) (w : InstrWord) (rest : List InstrWord) (i : Instr) (d : Delivery),
    s.waiting = none → s.instrIn = w :: rest → decode w = .instr i → InputMissing i s → Answers i d →
    ∃ t u : State, step s = .next t ∧ step (t.deliver d) = .next u ∧ step (s.deliver d) = .next u

/-! ## Memory and the invariant -/

/-- R47: memory is written only by STR A, STR X, STBYTE, DECI and CHARI: every other cell than the one such an instruction
addresses, and every cell for all other instructions, reads as before; the common part and an invalid opcode write none. -/
def Obligations.OnlyFiveInstructionsWriteMemory : Prop :=
  (∀ (i : Instr) (a : Nat), storeTarget i = some a ↔ ∃ addr : Word, a = effAddr addr ∧
    (i = .strA addr ∨ i = .strX addr ∨ i = .stbyte addr ∨ i = .deci addr ∨ i = .chari addr)) ∧
  (∀ (i : Instr) (s : State), ∃ t : State, exec i s = .next t ∧
    ∀ a : Nat, storeTarget i ≠ some a → t.mem.read a = s.mem.read a) ∧
  (∀ (s : State) (rest : List InstrWord), SameMemory s (s.beginStep rest) ∧ SameMemory s s.invalidOpcode)

/-- Two memories in canonical form that read alike everywhere are equal data (20_memory.md section 1; log 9). -/
def Obligations.EqualReadsEqualMemory : Prop :=
  ∀ m n : Memory, m.wf → n.wf → (∀ a, m.read a = n.read a) → m = n

/-- The invariant holds at reset (the canonical memory and the ports' values are the model's: logs 8 and 9). -/
def Obligations.InvariantHoldsAtReset : Prop := Inv State.reset

/-- Every step keeps the invariant, from every state that meets it: memory stays canonical and inside the array, `SP` stays 0 once
the core runs (10_state.md section 1), a waiting step is an input instruction's and has reported nothing (60_exceptions.md section 4; logs 4, 5 and 9). -/
def Obligations.StepKeepsInvariant : Prop :=
  ∀ s t : State, Inv s → step s = .next t → Inv t

/-- The host's deliveries keep the invariant and reach no register, cell, mode, status or output (60_exceptions.md section 6; decision D24, log 3). -/
def Obligations.DeliveryKeepsInvariant : Prop :=
  ∀ (s : State) (d : Delivery),
    (Inv s → Inv (s.deliver d)) ∧ (s.deliver d).regs = s.regs ∧ (s.deliver d).mem = s.mem ∧ (s.deliver d).mode = s.mode ∧
    (s.deliver d).status = s.status ∧ (s.deliver d).waiting = s.waiting ∧ SameOutputs s (s.deliver d)

/-- After the first step `SP = 0` for ever, whatever the host delivers (10_state.md rule R28, an inference of the spec). -/
def Obligations.StackPointerZeroForEver : Prop :=
  ∀ s : State, Reachable s → s.mode = .running → s.regs.sp = 0 ∧ ∀ t : State, step s = .next t → t.regs.sp = 0

/-- STR A, from a Running state, to the cell the next step loads: the next step's `IR` load sees it, `IR = u24(A)`, whatever the next
word is. The spec infers it (20_memory.md section 7, 70_reset_and_hazards.md section 3); which cell the next step loads rests on
decisions D31 and D9 (logs 24 and 12). -/
def Obligations.StoreSeenByNextIRLoad : Prop :=
  ∀ (s : State) (addr : Word) (w : InstrWord) (rest : List InstrWord),
    s.mode = .running → s.waiting = none → s.instrIn = joinWord 0xE0#8 addr :: w :: rest →
    addr.toNat = (s.regs.pc.toNat + 1) % 65536 →
    ∃ t u : State, step s = .next t ∧ step t = .next u ∧ (u.regs.ir.toNat : Int) = s.regs.a.toInt % 16777216

/-- The same for every instruction that writes memory, STR A, STR X, STBYTE, DECI and CHARI, in the first step too: when its target is
the cell at the `PC` its step leaves, the next step loads `IR` with the stored number modulo 2^24. The spec infers it (20_memory.md
section 7, 70_reset_and_hazards.md section 3); which cell the next step loads rests on decisions D31 and D9 (logs 24 and 12). -/
def Obligations.AnyStoreSeenByNextIRLoad : Prop :=
  ∀ (s : State) (w v : InstrWord) (rest : List InstrWord) (i : Instr) (n : Int),
    s.waiting = none → s.instrIn = w :: v :: rest → decode w = .instr i →
    storeTarget i = some (s.beginStep (v :: rest)).regs.pc.toNat → storedValue i (s.beginStep (v :: rest)) = some n →
    ∃ t u : State, step s = .next t ∧ step t = .next u ∧ (u.regs.ir.toNat : Int) = n % 16777216

/-! ## NOT, SHL, SHR, ROL, ROR -/

/-- NOT A and NOT X flip the digits of the minimal digit string; so the result is never negative (41_unary.md section 2; decisions
D10, D11 and D32, logs 14, 15 and 25). -/
def Obligations.NotFlipsMinimalDigits : Prop :=
  ∀ (addr : Word) (s : State),
    decode (joinWord 0x18#8 addr) = .instr (.notA addr) ∧ decode (joinWord 0x19#8 addr) = .instr (.notX addr) ∧
    (∃ t : State, exec (.notA addr) s = .next t ∧ t.regs = { s.regs with a := t.regs.a } ∧
      t.regs.a.toNat = (2 ^ blen s.regs.a.toNat - 1) - s.regs.a.toNat ∧ 0 ≤ t.regs.a.toInt ∧ RegistersOnly s t) ∧
    (∃ t : State, exec (.notX addr) s = .next t ∧ t.regs = { s.regs with x := t.regs.x } ∧
      t.regs.x.toNat = (2 ^ blen s.regs.x.toNat - 1) - s.regs.x.toNat ∧ RegistersOnly s t)

/-- SHL A doubles `A` modulo 2^16, read signed (41_unary.md section 3; decision D8, log 12). -/
def Obligations.ShiftLeftAccumulator : Prop :=
  ∀ (addr : Word) (s : State), decode (joinWord 0x1C#8 addr) = .instr (.shlA addr) ∧
    ∃ t : State, exec (.shlA addr) s = .next t ∧ t.regs = { s.regs with a := t.regs.a } ∧
      t.regs.a.toInt = Int.bmod (2 * s.regs.a.toInt) 65536 ∧ RegistersOnly s t

/-- SHL X writes the doubled ACCUMULATOR to `X`; `A` is unchanged and the old `X` is not read (41_unary.md section 3; decision D12, log 16). -/
def Obligations.ShiftLeftIndexFromAccumulator : Prop :=
  ∀ (addr : Word) (s : State), decode (joinWord 0x1D#8 addr) = .instr (.shlX addr) ∧
    ∃ t : State, exec (.shlX addr) s = .next t ∧ t.regs = { s.regs with x := t.regs.x } ∧
      (t.regs.x.toNat : Int) = (2 * s.regs.a.toInt) % 65536 ∧ RegistersOnly s t

/-- R98: SHR A is the arithmetic shift: the result is `floor(A / 2)`. -/
def Obligations.ShiftRightAccumulator : Prop :=
  ∀ (addr : Word) (s : State), decode (joinWord 0x1E#8 addr) = .instr (.shrA addr) ∧
    ∃ t : State, exec (.shrA addr) s = .next t ∧ t.regs = { s.regs with a := t.regs.a } ∧
      t.regs.a.toInt = Int.fdiv s.regs.a.toInt 2 ∧ RegistersOnly s t

/-- SHR X shifts in a 0 and takes its operand from `X` (41_unary.md section 4; decision D13, log 17). -/
def Obligations.ShiftRightIndex : Prop :=
  ∀ (addr : Word) (s : State), decode (joinWord 0x1F#8 addr) = .instr (.shrX addr) ∧
    ∃ t : State, exec (.shrX addr) s = .next t ∧ t.regs = { s.regs with x := t.regs.x } ∧
      t.regs.x.toNat = s.regs.x.toNat / 2 ∧ t.regs.x.getLsbD 15 = false ∧ RegistersOnly s t

/-- R100, R101: ROL moves the first digit of the minimal digit string to the end; for `A >= 0` the result is never negative, and for
`A < 0` the rotation is over all 16 bits (decisions D10 and D32, logs 14 and 25). -/
def Obligations.RotateLeftDigits : Prop :=
  ∀ (addr : Word) (s : State),
    decode (joinWord 0x20#8 addr) = .instr (.rolA addr) ∧ decode (joinWord 0x21#8 addr) = .instr (.rolX addr) ∧
    (∃ t : State, exec (.rolA addr) s = .next t ∧ t.regs = { s.regs with a := t.regs.a } ∧
      t.regs.a.toNat = val (rotateLeft (bin s.regs.a.toNat)) ∧ (0 ≤ s.regs.a.toInt → 0 ≤ t.regs.a.toInt) ∧
      (s.regs.a.toInt < 0 → t.regs.a = s.regs.a.rotateLeft 1) ∧ RegistersOnly s t) ∧
    (∃ t : State, exec (.rolX addr) s = .next t ∧ t.regs = { s.regs with x := t.regs.x } ∧
      t.regs.x.toNat = val (rotateLeft (bin s.regs.x.toNat)) ∧ RegistersOnly s t)

/-- R102, R103: ROR moves the last digit of the minimal digit string to the front; for `A < 0` the rotation is over all 16 bits
(decisions D10 and D32, logs 14 and 25). -/
def Obligations.RotateRightDigits : Prop :=
  ∀ (addr : Word) (s : State),
    decode (joinWord 0x22#8 addr) = .instr (.rorA addr) ∧ decode (joinWord 0x23#8 addr) = .instr (.rorX addr) ∧
    (∃ t : State, exec (.rorA addr) s = .next t ∧ t.regs = { s.regs with a := t.regs.a } ∧
      t.regs.a.toNat = val (rotateRight (bin s.regs.a.toNat)) ∧
      (s.regs.a.toInt < 0 → t.regs.a = s.regs.a.rotateRight 1) ∧ RegistersOnly s t) ∧
    (∃ t : State, exec (.rorX addr) s = .next t ∧ t.regs = { s.regs with x := t.regs.x } ∧
      t.regs.x.toNat = val (rotateRight (bin s.regs.x.toNat)) ∧ RegistersOnly s t)

/-- The other readings of the parameters: NOT under `ClearFirst` gives 0; SHL X under `FromAWritesBoth` and `FromX`; OR with
`OR_IS_AND = false` (41_unary.md section 1, 43_arith_logic.md section 1; decisions D11, D12 and D15). -/
def Obligations.ParameterAlternatives : Prop :=
  ∀ (s : State) (m : Byte),
    (notA .clearFirst s).regs = { s.regs with a := 0 } ∧ (notX .clearFirst s).regs = { s.regs with x := 0 } ∧
    ((shlX .fromAWritesBoth s).regs.x.toNat : Int) = (2 * s.regs.a.toInt) % 65536 ∧
    (shlX .fromAWritesBoth s).regs.a.toInt = Int.bmod (2 * s.regs.a.toInt) 65536 ∧
    (shlX .fromX s).regs.x.toNat = (2 * s.regs.x.toNat) % 65536 ∧ (shlX .fromX s).regs.a = s.regs.a ∧
    (orA false m s).regs.a.toNat = s.regs.a.toNat ||| m.toNat ∧ (orX false m s).regs.x.toNat = s.regs.x.toNat ||| m.toNat

/-! ## DECI, DECO, CHARI, CHARO -/

/-- DECI stores the delivered value whole in the addressed cell (42_io.md section 2; decision D17, log 21). -/
def Obligations.DecimalInputStoresValue : Prop :=
  ∀ (addr : Word) (s : State) (v : Cell) (rest : List Cell), s.decIn = v :: rest →
    decode (joinWord 0x30#8 addr) = .instr (.deci addr) ∧
    ∃ t : State, exec (.deci addr) s = .next t ∧ CompletedWith .ok t ∧ t.mem.read (effAddr addr) = v ∧
      SameMemoryBut (effAddr addr) s t ∧ t.regs = s.regs ∧ t.mode = s.mode ∧ t.decIn = rest ∧
      t.instrIn = s.instrIn ∧ t.charIn = s.charIn ∧ t.maskIn = s.maskIn ∧ SameOutputs s t

/-- DECO sends the cell's signed value, once and last in step order; nothing else changes (42_io.md section 3; decision D19, log 21). -/
def Obligations.DecimalOutputSendsCell : Prop :=
  ∀ (addr : Word) (s : State), decode (joinWord 0x38#8 addr) = .instr (.deco addr) ∧
    ∃ t : State, exec (.deco addr) s = .next t ∧ CompletedWith .ok t ∧
      t.outDec = some (s.mem.read (effAddr addr)) ∧ t.sent = s.sent ++ [.dec (s.mem.read (effAddr addr))] ∧
      t.outChar = s.outChar ∧ t.regs = s.regs ∧ t.mode = s.mode ∧ SameMemory s t ∧ SameInputs s t

/-- CHARI stores the character's code zero-extended: 0 to 255 (42_io.md section 4; decision D18, log 21). -/
def Obligations.CharacterInputStoresCode : Prop :=
  ∀ (addr : Word) (s : State) (c : Byte) (rest : List Byte), s.charIn = c :: rest →
    decode (joinWord 0x48#8 addr) = .instr (.chari addr) ∧
    ∃ t : State, exec (.chari addr) s = .next t ∧ CompletedWith .ok t ∧ (t.mem.read (effAddr addr)).toInt = (c.toNat : Int) ∧
      SameMemoryBut (effAddr addr) s t ∧ t.regs = s.regs ∧ t.mode = s.mode ∧ t.charIn = rest ∧
      t.instrIn = s.instrIn ∧ t.decIn = s.decIn ∧ t.maskIn = s.maskIn ∧ SameOutputs s t

/-- CHARO sends the code of the cell's low 8 bits, once and last in step order (42_io.md section 5; decision D18, log 21). -/
def Obligations.CharacterOutputSendsLowByte : Prop :=
  ∀ (addr : Word) (s : State), decode (joinWord 0x50#8 addr) = .instr (.charo addr) ∧
    ∃ (t : State) (c : Byte), exec (.charo addr) s = .next t ∧ CompletedWith .ok t ∧
      (c.toNat : Int) = (s.mem.read (effAddr addr)).toInt % 256 ∧ t.outChar = some c ∧ t.sent = s.sent ++ [.char c] ∧
      t.outDec = s.outDec ∧ t.regs = s.regs ∧ t.mode = s.mode ∧ SameMemory s t ∧ SameInputs s t

/-- The decimal text of a cell reads back as its signed value, and starts with `-` exactly when that is negative (42_io.md section 3; decision D19, log 21). -/
def Obligations.DecimalTextReadsBack : Prop :=
  ∀ v : Cell, decimalValue (decimalText v) = some v.toInt ∧ ((decimalText v).head? = some '-' ↔ v.toInt < 0)

/-! ## ADD, SUB, AND, OR -/

/-- R114, R115: ADD adds the cell to the selected register, wrapping modulo 2^16: read signed in `A`, unsigned in `X`; the other register is unchanged. -/
def Obligations.AddCellToRegister : Prop :=
  ∀ (addr : Word) (s : State),
    decode (joinWord 0x70#8 addr) = .instr (.addA addr) ∧ decode (joinWord 0x78#8 addr) = .instr (.addX addr) ∧
    (∃ t : State, exec (.addA addr) s = .next t ∧ t.regs = { s.regs with a := t.regs.a } ∧
      t.regs.a.toInt = Int.bmod (s.regs.a.toInt + (s.mem.read (effAddr addr)).toInt) 65536 ∧ RegistersOnly s t) ∧
    (∃ t : State, exec (.addX addr) s = .next t ∧ t.regs = { s.regs with x := t.regs.x } ∧
      (t.regs.x.toNat : Int) = ((s.regs.x.toNat : Int) + (s.mem.read (effAddr addr)).toInt) % 65536 ∧ RegistersOnly s t)

/-- R116, R117: SUB subtracts the cell from the selected register, wrapping modulo 2^16: read signed in `A`, unsigned in `X`; the other register is unchanged. -/
def Obligations.SubtractCellFromRegister : Prop :=
  ∀ (addr : Word) (s : State),
    decode (joinWord 0x80#8 addr) = .instr (.subA addr) ∧ decode (joinWord 0x88#8 addr) = .instr (.subX addr) ∧
    (∃ t : State, exec (.subA addr) s = .next t ∧ t.regs = { s.regs with a := t.regs.a } ∧
      t.regs.a.toInt = Int.bmod (s.regs.a.toInt - (s.mem.read (effAddr addr)).toInt) 65536 ∧ RegistersOnly s t) ∧
    (∃ t : State, exec (.subX addr) s = .next t ∧ t.regs = { s.regs with x := t.regs.x } ∧
      (t.regs.x.toNat : Int) = ((s.regs.x.toNat : Int) - (s.mem.read (effAddr addr)).toInt) % 65536 ∧ RegistersOnly s t)

/-- Only the low 16 bits of the cell matter to ADD and SUB: the register's 16-bit pattern is computed from them alone (43_arith_logic.md
section 1; decision D8, log 12). -/
def Obligations.SumsUseLowHalfOfCell : Prop :=
  ∀ (addr : Word) (s t : State), exec (.addA addr) s = .next t →
    t.regs.a = s.regs.a + (s.mem.read (effAddr addr)).truncate 16 ∧
    ∀ u : State, (exec (.addX addr) s = .next u → u.regs.x = s.regs.x + (s.mem.read (effAddr addr)).truncate 16) ∧
      (exec (.subA addr) s = .next u → u.regs.a = s.regs.a - (s.mem.read (effAddr addr)).truncate 16) ∧
      (exec (.subX addr) s = .next u → u.regs.x = s.regs.x - (s.mem.read (effAddr addr)).truncate 16)

/-- AND takes the delivered mask to the register's 8 least significant bits and clears the others; the address field and memory
have no part (43_arith_logic.md section 4; decisions D10 and D14, logs 14 and 18). -/
def Obligations.AndWithDeliveredMask : Prop :=
  ∀ (addr : Word) (s : State) (m : Byte) (rest : List Byte), s.maskIn = m :: rest →
    decode (joinWord 0x90#8 addr) = .instr (.andA addr) ∧ decode (joinWord 0x98#8 addr) = .instr (.andX addr) ∧
    (∃ t : State, exec (.andA addr) s = .next t ∧ t.regs = { s.regs with a := t.regs.a } ∧
      t.regs.a.toNat = s.regs.a.toNat &&& m.toNat ∧ 0 ≤ t.regs.a.toInt ∧ t.regs.a.toInt ≤ 255 ∧
      t.maskIn = rest ∧ RegistersOnly { s with maskIn := rest } t) ∧
    (∃ t : State, exec (.andX addr) s = .next t ∧ t.regs = { s.regs with x := t.regs.x } ∧
      t.regs.x.toNat = s.regs.x.toNat &&& m.toNat ∧ t.regs.x.toNat ≤ 255 ∧
      t.maskIn = rest ∧ RegistersOnly { s with maskIn := rest } t)

/-- OR computes what AND computes, as in the source (43_arith_logic.md section 5; decision D15, log 19). -/
def Obligations.OrComputesAnd : Prop :=
  ∀ (addr : Word) (s : State) (m : Byte) (rest : List Byte), s.maskIn = m :: rest →
    decode (joinWord 0xA0#8 addr) = .instr (.orA addr) ∧ decode (joinWord 0xA8#8 addr) = .instr (.orX addr) ∧
    (∃ t : State, exec (.orA addr) s = .next t ∧ t.regs = { s.regs with a := t.regs.a } ∧
      t.regs.a.toNat = s.regs.a.toNat &&& m.toNat ∧ t.maskIn = rest ∧ RegistersOnly { s with maskIn := rest } t) ∧
    (∃ t : State, exec (.orX addr) s = .next t ∧ t.regs = { s.regs with x := t.regs.x } ∧
      t.regs.x.toNat = s.regs.x.toNat &&& m.toNat ∧ t.maskIn = rest ∧ RegistersOnly { s with maskIn := rest } t)

/-! ## LDR, LDBYTE, STR, STBYTE -/

/-- R124, R125: LDR takes the cell modulo 2^16: read signed into `A`, unsigned into `X`. -/
def Obligations.LoadNarrowsCell : Prop :=
  ∀ (addr : Word) (s : State),
    decode (joinWord 0xC0#8 addr) = .instr (.ldrA addr) ∧ decode (joinWord 0xC8#8 addr) = .instr (.ldrX addr) ∧
    (∃ t : State, exec (.ldrA addr) s = .next t ∧ t.regs = { s.regs with a := t.regs.a } ∧
      t.regs.a.toInt = Int.bmod (s.mem.read (effAddr addr)).toInt 65536 ∧ RegistersOnly s t) ∧
    (∃ t : State, exec (.ldrX addr) s = .next t ∧ t.regs = { s.regs with x := t.regs.x } ∧
      (t.regs.x.toNat : Int) = (s.mem.read (effAddr addr)).toInt % 65536 ∧ RegistersOnly s t)

/-- LDBYTE loads the cell's low 16 bits into `A`, not its low 8 (44_load_store.md section 2; decision D16, log 20). -/
def Obligations.LoadByteMasksNothing : Prop :=
  ∀ (addr : Word) (s : State), decode (joinWord 0xD0#8 addr) = .instr (.ldbyte addr) ∧
    ∃ t : State, exec (.ldbyte addr) s = .next t ∧ t.regs = { s.regs with a := t.regs.a } ∧
      t.regs.a.toInt = Int.bmod (s.mem.read (effAddr addr)).toInt 65536 ∧ RegistersOnly s t

/-- STR stores the register's numeric value exactly: `A` signed, `X` unsigned, no masking (44_load_store.md section 3; decision D7, log 13). -/
def Obligations.StoreKeepsNumericValue : Prop :=
  ∀ (addr : Word) (s : State),
    decode (joinWord 0xE0#8 addr) = .instr (.strA addr) ∧ decode (joinWord 0xE8#8 addr) = .instr (.strX addr) ∧
    (∃ t : State, exec (.strA addr) s = .next t ∧ (t.mem.read (effAddr addr)).toInt = s.regs.a.toInt ∧
      StoresOnly (effAddr addr) s t) ∧
    (∃ t : State, exec (.strX addr) s = .next t ∧ (t.mem.read (effAddr addr)).toInt = (s.regs.x.toNat : Int) ∧
      StoresOnly (effAddr addr) s t)

/-- STBYTE stores the whole accumulator, not its low byte (44_load_store.md section 3; decision D16, log 20). -/
def Obligations.StoreByteMasksNothing : Prop :=
  ∀ (addr : Word) (s : State), decode (joinWord 0xF0#8 addr) = .instr (.stbyte addr) ∧
    ∃ t : State, exec (.stbyte addr) s = .next t ∧ (t.mem.read (effAddr addr)).toInt = s.regs.a.toInt ∧
      StoresOnly (effAddr addr) s t

/-- A store followed by a load from the same cell: the same register comes back, and the other register takes the same 16-bit pattern
(44_load_store.md rule R130, an inference of the spec). -/
def Obligations.StoreThenLoad : Prop :=
  ∀ (addr : Word) (s : State),
    (∃ t u v : State, exec (.strA addr) s = .next t ∧ exec (.ldrA addr) t = .next u ∧ exec (.ldrX addr) t = .next v ∧
      u.regs = s.regs ∧ v.regs = { s.regs with x := s.regs.a }) ∧
    (∃ t u v : State, exec (.strX addr) s = .next t ∧ exec (.ldrX addr) t = .next u ∧ exec (.ldrA addr) t = .next v ∧
      u.regs = s.regs ∧ v.regs = { s.regs with a := s.regs.x })
end

