-- ==== Sys2Proof/Laws/Decode.lean ====
section
/-! SUPPORT. The fields of a joined word, the rows of the opcode map, and the well-formedness every instruction has (spec/30_encoding.md rules R43, R65, R73). -/

namespace Sys2Proof

/-- Every term of `Instr` is well formed: its address field is 16 bits by type (R43). -/
theorem Instr.wellFormed_always (i : Instr) : i.wellFormed = true := by
  exact decide_eq_true i.addr.isLt

/-- A character has a hexadecimal value exactly when it is one of `[0-9A-Fa-f]` (R17, R64). -/
theorem hexValue_isSome (c : Char) : (Machine.hexValue c).isSome = isHexDigit c := by
  unfold Machine.hexValue
  split <;> simp_all

/-- The character of each of the 16 values, in either case, has that value (R17). -/
theorem hexValue_hexChar : ∀ n : Nat, n < 16 →
    Machine.hexValue (hexChar n) = some n ∧ Machine.hexValue (hexChar n).toLower = some n := by decide

/-- One bit of a joined word: of the address below bit 16, of the opcode above. -/
theorem getLsbD_joinWord (op : Byte) (addr : Word) (i : Nat) :
    (joinWord op addr).getLsbD i = if i < 16 then addr.getLsbD i else op.getLsbD (i - 16) := by
  refine (BitVec.getLsbD_append (x := op) (y := addr)).trans ?_
  split <;> rfl

@[simp] theorem opcodeOf_joinWord (op : Byte) (addr : Word) : opcodeOf (joinWord op addr) = op := by
  ext i hi
  simp only [opcodeOf, BitVec.getElem_extractLsb', getLsbD_joinWord]
  rw [if_neg (by omega), show 16 + i - 16 = i by omega, BitVec.getLsbD_eq_getElem hi]

@[simp] theorem addressOf_joinWord (op : Byte) (addr : Word) : addressOf (joinWord op addr) = addr := by
  ext i hi
  simp only [addressOf, BitVec.getElem_extractLsb', getLsbD_joinWord]
  rw [if_pos (by omega), show 0 + i = i by omega, BitVec.getLsbD_eq_getElem hi]

/-- A word is its two fields. -/
theorem joinWord_fields (w : InstrWord) : joinWord (opcodeOf w) (addressOf w) = w := by
  apply BitVec.eq_of_getLsbD_eq
  intro i hi
  rw [getLsbD_joinWord]
  simp only [opcodeOf, addressOf, BitVec.getLsbD_extractLsb']
  split
  · simp [*]
  · rw [show 16 + (i - 16) = i by omega, decide_eq_true (by omega), Bool.true_and]

/-- The rows are pairwise distinct (R73). -/
theorem opcodeMap_nodup : (opcodeMap.map Prod.fst).Nodup := by decide

/-- 29 rows (R73). -/
theorem opcodeMap_length : opcodeMap.length = 29 := by decide

@[simp] theorem Instr.addr_withAddr (i : Instr) (a : Word) : (i.withAddr a).addr = a := by cases i <;> rfl

@[simp] theorem Instr.opcode_withAddr (i : Instr) (a : Word) : (i.withAddr a).opcode = i.opcode := by cases i <;> rfl

end Sys2Proof
end

