-- ==== Sys2Proof/Laws/Digits.lean ====
section
/-! SUPPORT. The recursion equations of the digit-string primitives (spec/00_scope.md rules R18, R19): later proofs unfold none of them. -/

namespace Sys2Proof.Machine

/-- With fuel enough the number of digits does not depend on the fuel. -/
theorem binFuel_enough : ∀ f g u : Nat, u ≤ f → u ≤ g → binFuel f u = binFuel g u := by
  intro f
  induction f with
  | zero =>
    intro g u hf _
    obtain rfl : u = 0 := by omega
    cases g <;> simp [binFuel]
  | succ f ih =>
    intro g u hf hg
    cases g with
    | zero => obtain rfl : u = 0 := by omega
              simp [binFuel]
    | succ g =>
      simp only [binFuel]
      split
      · rfl
      · rw [ih g (u / 2) (by omega) (by omega)]

/-- `bin` peels the last digit. -/
theorem bin_pos {u : Nat} (h : 0 < u) : bin u = bin (u / 2) ++ [u % 2 == 1] := by
  obtain ⟨f, rfl⟩ : ∃ f, u = f + 1 := ⟨u - 1, by omega⟩
  rw [bin, binFuel, if_neg (by omega), bin, binFuel_enough f ((f + 1) / 2) _ (by omega) le_rfl]

theorem val_nil : val [] = 0 := rfl

/-- `val` peels the last digit. -/
theorem val_concat (s : Digits) (d : Bool) : val (s ++ [d]) = 2 * val s + d.toNat := by simp [val]

/-- `val` peels the first digit: its weight is the number of digits after it. -/
theorem val_cons (d : Bool) (s : Digits) : val (d :: s) = d.toNat * 2 ^ s.length + val s := by
  induction s using List.reverseRecOn with
  | nil => simp [val]
  | append_singleton s e ih =>
    rw [← List.cons_append, val_concat, val_concat, ih]
    simp only [List.length_append, List.length_cons, List.length_nil, pow_succ]
    ring

/-- A digit string's value fits in its digits. -/
theorem val_lt (s : Digits) : val s < 2 ^ s.length := by
  induction s with
  | nil => simp [val]
  | cons d s ih =>
    rw [val_cons, List.length_cons, pow_succ]
    cases d <;> simp <;> omega

end Sys2Proof.Machine
end

