-- ==== Sys2Proof/Laws/Memory.lean ====
section
/-! SUPPORT. The laws of memory: a read after a write to the same cell and to another, and that a write keeps the canonical form
(spec/20_memory.md rules R45, R56; log 9). -/

namespace Sys2Proof.Machine

theorem Memory.read_insert_same (m : Memory) (a : Nat) (v : Cell) : (m.insert a v).read a = v := by
  induction m with
  | nil => simp [Memory.insert, Memory.read]
  | cons e m ih =>
    obtain ⟨k, w⟩ := e
    simp only [Memory.insert]
    split
    · simp [Memory.read]
    · split
      · simp [Memory.read]
      · rename_i h1 h2
        have : k ≠ a := fun h => h2 h.symm
        simp [Memory.read, this, ih]

theorem Memory.read_insert_other (m : Memory) (a b : Nat) (v : Cell) (h : b ≠ a) : (m.insert a v).read b = m.read b := by
  induction m with
  | nil => simp [Memory.insert, Memory.read, h.symm]
  | cons e m ih =>
    obtain ⟨k, w⟩ := e
    simp only [Memory.insert]
    split
    · simp [Memory.read, h.symm]
    · split
      · rename_i h2; subst h2; simp [Memory.read, h.symm]
      · simp [Memory.read, ih]

theorem Memory.read_filter_same (m : Memory) (a : Nat) : Memory.read (m.filter (fun e => e.1 != a)) a = unlistedCell := by
  induction m with
  | nil => rfl
  | cons e m ih =>
    obtain ⟨k, w⟩ := e
    by_cases h : k = a <;> simp_all [Memory.read]

theorem Memory.read_filter_other (m : Memory) (a b : Nat) (h : b ≠ a) :
    Memory.read (m.filter (fun e => e.1 != a)) b = m.read b := by
  induction m with
  | nil => rfl
  | cons e m ih =>
    obtain ⟨k, w⟩ := e
    by_cases hk : k = a
    · subst hk; simp_all [Memory.read, h.symm]
    · simp_all [Memory.read]

/-- The cell written reads as the value written, in any memory. -/
theorem Memory.read_write_same (m : Memory) (a : Nat) (v : Cell) : (m.write a v).read a = v := by
  unfold Memory.write
  split
  · rename_i h; rw [Memory.read_filter_same, h]
  · exact Memory.read_insert_same m a v

/-- Every other cell reads as before, in any memory. -/
theorem Memory.read_write_other (m : Memory) (a b : Nat) (v : Cell) (h : b ≠ a) : (m.write a v).read b = m.read b := by
  unfold Memory.write
  split
  · exact Memory.read_filter_other m a b h
  · exact Memory.read_insert_other m a b v h

/-- An entry of a memory after an insertion is the new one or an old one. -/
theorem Memory.mem_insert {m : Memory} {a : Nat} {v : Cell} {e : Nat × Cell} (h : e ∈ m.insert a v) : e = (a, v) ∨ e ∈ m := by
  induction m with
  | nil => simpa [Memory.insert] using h
  | cons f m ih =>
    obtain ⟨k, w⟩ := f
    simp only [Memory.insert] at h
    split at h
    · simpa using h
    · split at h
      · rcases List.mem_cons.1 h with h | h
        · exact .inl h
        · exact .inr (List.mem_cons_of_mem _ h)
      · rcases List.mem_cons.1 h with h | h
        · exact .inr (h ▸ List.mem_cons_self)
        · exact (ih h).imp id (List.mem_cons_of_mem _)

theorem Memory.sorted_insert {m : Memory} (a : Nat) (v : Cell) (h : m.Pairwise (fun e f => e.1 < f.1)) :
    (m.insert a v).Pairwise (fun e f => e.1 < f.1) := by
  induction m with
  | nil => simp [Memory.insert]
  | cons e m ih =>
    obtain ⟨k, w⟩ := e
    obtain ⟨hk, hm⟩ := List.pairwise_cons.1 h
    simp only [Memory.insert]
    split
    · rename_i hlt
      refine List.pairwise_cons.2 ⟨fun f hf => ?_, h⟩
      rcases List.mem_cons.1 hf with rfl | hf
      · exact hlt
      · exact lt_trans hlt (hk f hf)
    · split
      · rename_i heq; subst heq; exact List.pairwise_cons.2 ⟨hk, hm⟩
      · refine List.pairwise_cons.2 ⟨fun f hf => ?_, ih hm⟩
        rcases Memory.mem_insert hf with rfl | hf
        · simp only; omega
        · exact hk f hf

/-- A write inside the array keeps the canonical form. -/
theorem Memory.wf_write {m : Memory} {a : Nat} (v : Cell) (ha : a < Config.memCells) (h : m.wf) : (m.write a v).wf := by
  unfold Memory.write
  split
  · exact ⟨h.1.filter _, fun e he => h.2 e (List.mem_of_mem_filter he)⟩
  · rename_i hv
    refine ⟨Memory.sorted_insert a v h.1, fun e he => ?_⟩
    rcases Memory.mem_insert he with rfl | he
    · exact ⟨ha, hv⟩
    · exact h.2 e he

/-- Reset memory has the canonical form. -/
theorem Memory.wf_reset : State.reset.mem.wf := by decide

/-- An effective address is inside the array (R43). -/
theorem effAddr_lt (addr : Word) : effAddr addr < Config.memCells := addr.isLt

end Sys2Proof.Machine
end

