-- ==== Sys2Proof/Laws/State.lean ====
section
/-! SUPPORT. Each field after each update of the state, true by computation, so that no later proof unfolds a record update. -/

namespace Sys2Proof.Machine

/-! ## The registers' own values -/

@[simp] theorem Regs.zero_a : Regs.zero.a = 0 := rfl
@[simp] theorem Regs.zero_x : Regs.zero.x = 0 := rfl
@[simp] theorem Regs.zero_pc : Regs.zero.pc = 0 := rfl
@[simp] theorem Regs.zero_sp : Regs.zero.sp = 0 := rfl
@[simp] theorem Regs.zero_ir : Regs.zero.ir = 0 := rfl

/-! ## `A <- v` (R30) -/

@[simp] theorem State.writeA_regs (s : State) (v : Int) : (s.writeA v).regs = { s.regs with a := s16 v } := rfl
@[simp] theorem State.writeA_mode (s : State) (v : Int) : (s.writeA v).mode = s.mode := rfl
@[simp] theorem State.writeA_mem (s : State) (v : Int) : (s.writeA v).mem = s.mem := rfl
@[simp] theorem State.writeA_instrIn (s : State) (v : Int) : (s.writeA v).instrIn = s.instrIn := rfl
@[simp] theorem State.writeA_decIn (s : State) (v : Int) : (s.writeA v).decIn = s.decIn := rfl
@[simp] theorem State.writeA_charIn (s : State) (v : Int) : (s.writeA v).charIn = s.charIn := rfl
@[simp] theorem State.writeA_maskIn (s : State) (v : Int) : (s.writeA v).maskIn = s.maskIn := rfl
@[simp] theorem State.writeA_waiting (s : State) (v : Int) : (s.writeA v).waiting = s.waiting := rfl
@[simp] theorem State.writeA_status (s : State) (v : Int) : (s.writeA v).status = s.status := rfl
@[simp] theorem State.writeA_outDec (s : State) (v : Int) : (s.writeA v).outDec = s.outDec := rfl
@[simp] theorem State.writeA_outChar (s : State) (v : Int) : (s.writeA v).outChar = s.outChar := rfl
@[simp] theorem State.writeA_sent (s : State) (v : Int) : (s.writeA v).sent = s.sent := rfl

/-! ## `X <- v` (R30) -/

@[simp] theorem State.writeX_regs (s : State) (v : Int) : (s.writeX v).regs = { s.regs with x := u16 v } := rfl
@[simp] theorem State.writeX_mode (s : State) (v : Int) : (s.writeX v).mode = s.mode := rfl
@[simp] theorem State.writeX_mem (s : State) (v : Int) : (s.writeX v).mem = s.mem := rfl
@[simp] theorem State.writeX_instrIn (s : State) (v : Int) : (s.writeX v).instrIn = s.instrIn := rfl
@[simp] theorem State.writeX_decIn (s : State) (v : Int) : (s.writeX v).decIn = s.decIn := rfl
@[simp] theorem State.writeX_charIn (s : State) (v : Int) : (s.writeX v).charIn = s.charIn := rfl
@[simp] theorem State.writeX_maskIn (s : State) (v : Int) : (s.writeX v).maskIn = s.maskIn := rfl
@[simp] theorem State.writeX_waiting (s : State) (v : Int) : (s.writeX v).waiting = s.waiting := rfl
@[simp] theorem State.writeX_status (s : State) (v : Int) : (s.writeX v).status = s.status := rfl
@[simp] theorem State.writeX_outDec (s : State) (v : Int) : (s.writeX v).outDec = s.outDec := rfl
@[simp] theorem State.writeX_outChar (s : State) (v : Int) : (s.writeX v).outChar = s.outChar := rfl
@[simp] theorem State.writeX_sent (s : State) (v : Int) : (s.writeX v).sent = s.sent := rfl

/-! ## `PC <- v` (R30) -/

@[simp] theorem State.writePC_regs (s : State) (v : Int) : (s.writePC v).regs = { s.regs with pc := u16 v } := rfl
@[simp] theorem State.writePC_mode (s : State) (v : Int) : (s.writePC v).mode = s.mode := rfl
@[simp] theorem State.writePC_mem (s : State) (v : Int) : (s.writePC v).mem = s.mem := rfl
@[simp] theorem State.writePC_instrIn (s : State) (v : Int) : (s.writePC v).instrIn = s.instrIn := rfl
@[simp] theorem State.writePC_decIn (s : State) (v : Int) : (s.writePC v).decIn = s.decIn := rfl
@[simp] theorem State.writePC_charIn (s : State) (v : Int) : (s.writePC v).charIn = s.charIn := rfl
@[simp] theorem State.writePC_maskIn (s : State) (v : Int) : (s.writePC v).maskIn = s.maskIn := rfl
@[simp] theorem State.writePC_waiting (s : State) (v : Int) : (s.writePC v).waiting = s.waiting := rfl
@[simp] theorem State.writePC_status (s : State) (v : Int) : (s.writePC v).status = s.status := rfl
@[simp] theorem State.writePC_outDec (s : State) (v : Int) : (s.writePC v).outDec = s.outDec := rfl
@[simp] theorem State.writePC_outChar (s : State) (v : Int) : (s.writePC v).outChar = s.outChar := rfl
@[simp] theorem State.writePC_sent (s : State) (v : Int) : (s.writePC v).sent = s.sent := rfl

/-! ## `IR <- v` (R30) -/

@[simp] theorem State.writeIR_regs (s : State) (v : Int) : (s.writeIR v).regs = { s.regs with ir := u24 v } := rfl
@[simp] theorem State.writeIR_mode (s : State) (v : Int) : (s.writeIR v).mode = s.mode := rfl
@[simp] theorem State.writeIR_mem (s : State) (v : Int) : (s.writeIR v).mem = s.mem := rfl
@[simp] theorem State.writeIR_instrIn (s : State) (v : Int) : (s.writeIR v).instrIn = s.instrIn := rfl
@[simp] theorem State.writeIR_decIn (s : State) (v : Int) : (s.writeIR v).decIn = s.decIn := rfl
@[simp] theorem State.writeIR_charIn (s : State) (v : Int) : (s.writeIR v).charIn = s.charIn := rfl
@[simp] theorem State.writeIR_maskIn (s : State) (v : Int) : (s.writeIR v).maskIn = s.maskIn := rfl
@[simp] theorem State.writeIR_waiting (s : State) (v : Int) : (s.writeIR v).waiting = s.waiting := rfl
@[simp] theorem State.writeIR_status (s : State) (v : Int) : (s.writeIR v).status = s.status := rfl
@[simp] theorem State.writeIR_outDec (s : State) (v : Int) : (s.writeIR v).outDec = s.outDec := rfl
@[simp] theorem State.writeIR_outChar (s : State) (v : Int) : (s.writeIR v).outChar = s.outChar := rfl
@[simp] theorem State.writeIR_sent (s : State) (v : Int) : (s.writeIR v).sent = s.sent := rfl

/-! ## `M[a] <- v` (R45) -/

@[simp] theorem State.memWrite_regs (s : State) (a : Nat) (v : Cell) : (s.memWrite a v).regs = s.regs := rfl
@[simp] theorem State.memWrite_mode (s : State) (a : Nat) (v : Cell) : (s.memWrite a v).mode = s.mode := rfl
@[simp] theorem State.memWrite_mem (s : State) (a : Nat) (v : Cell) : (s.memWrite a v).mem = s.mem.write a v := rfl
@[simp] theorem State.memWrite_instrIn (s : State) (a : Nat) (v : Cell) : (s.memWrite a v).instrIn = s.instrIn := rfl
@[simp] theorem State.memWrite_decIn (s : State) (a : Nat) (v : Cell) : (s.memWrite a v).decIn = s.decIn := rfl
@[simp] theorem State.memWrite_charIn (s : State) (a : Nat) (v : Cell) : (s.memWrite a v).charIn = s.charIn := rfl
@[simp] theorem State.memWrite_maskIn (s : State) (a : Nat) (v : Cell) : (s.memWrite a v).maskIn = s.maskIn := rfl
@[simp] theorem State.memWrite_waiting (s : State) (a : Nat) (v : Cell) : (s.memWrite a v).waiting = s.waiting := rfl
@[simp] theorem State.memWrite_status (s : State) (a : Nat) (v : Cell) : (s.memWrite a v).status = s.status := rfl
@[simp] theorem State.memWrite_outDec (s : State) (a : Nat) (v : Cell) : (s.memWrite a v).outDec = s.outDec := rfl
@[simp] theorem State.memWrite_outChar (s : State) (a : Nat) (v : Cell) : (s.memWrite a v).outChar = s.outChar := rfl
@[simp] theorem State.memWrite_sent (s : State) (a : Nat) (v : Cell) : (s.memWrite a v).sent = s.sent := rfl

/-! ## `OutDec(v)` (R15) -/

@[simp] theorem State.sendDec_regs (s : State) (v : Cell) : (s.sendDec v).regs = s.regs := rfl
@[simp] theorem State.sendDec_mode (s : State) (v : Cell) : (s.sendDec v).mode = s.mode := rfl
@[simp] theorem State.sendDec_mem (s : State) (v : Cell) : (s.sendDec v).mem = s.mem := rfl
@[simp] theorem State.sendDec_instrIn (s : State) (v : Cell) : (s.sendDec v).instrIn = s.instrIn := rfl
@[simp] theorem State.sendDec_decIn (s : State) (v : Cell) : (s.sendDec v).decIn = s.decIn := rfl
@[simp] theorem State.sendDec_charIn (s : State) (v : Cell) : (s.sendDec v).charIn = s.charIn := rfl
@[simp] theorem State.sendDec_maskIn (s : State) (v : Cell) : (s.sendDec v).maskIn = s.maskIn := rfl
@[simp] theorem State.sendDec_waiting (s : State) (v : Cell) : (s.sendDec v).waiting = s.waiting := rfl
@[simp] theorem State.sendDec_status (s : State) (v : Cell) : (s.sendDec v).status = s.status := rfl
@[simp] theorem State.sendDec_outDec (s : State) (v : Cell) : (s.sendDec v).outDec = some v := rfl
@[simp] theorem State.sendDec_outChar (s : State) (v : Cell) : (s.sendDec v).outChar = s.outChar := rfl
@[simp] theorem State.sendDec_sent (s : State) (v : Cell) : (s.sendDec v).sent = s.sent ++ [.dec v] := rfl

/-! ## `OutChar(c)` (R15) -/

@[simp] theorem State.sendChar_regs (s : State) (c : Byte) : (s.sendChar c).regs = s.regs := rfl
@[simp] theorem State.sendChar_mode (s : State) (c : Byte) : (s.sendChar c).mode = s.mode := rfl
@[simp] theorem State.sendChar_mem (s : State) (c : Byte) : (s.sendChar c).mem = s.mem := rfl
@[simp] theorem State.sendChar_instrIn (s : State) (c : Byte) : (s.sendChar c).instrIn = s.instrIn := rfl
@[simp] theorem State.sendChar_decIn (s : State) (c : Byte) : (s.sendChar c).decIn = s.decIn := rfl
@[simp] theorem State.sendChar_charIn (s : State) (c : Byte) : (s.sendChar c).charIn = s.charIn := rfl
@[simp] theorem State.sendChar_maskIn (s : State) (c : Byte) : (s.sendChar c).maskIn = s.maskIn := rfl
@[simp] theorem State.sendChar_waiting (s : State) (c : Byte) : (s.sendChar c).waiting = s.waiting := rfl
@[simp] theorem State.sendChar_status (s : State) (c : Byte) : (s.sendChar c).status = s.status := rfl
@[simp] theorem State.sendChar_outDec (s : State) (c : Byte) : (s.sendChar c).outDec = s.outDec := rfl
@[simp] theorem State.sendChar_outChar (s : State) (c : Byte) : (s.sendChar c).outChar = some c := rfl
@[simp] theorem State.sendChar_sent (s : State) (c : Byte) : (s.sendChar c).sent = s.sent ++ [.char c] := rfl

/-! ## `report(cond)` (R131) -/

@[simp] theorem State.report_regs (s : State) (cond : Status) : (s.report cond).regs = s.regs := rfl
@[simp] theorem State.report_mode (s : State) (cond : Status) : (s.report cond).mode = s.mode := rfl
@[simp] theorem State.report_mem (s : State) (cond : Status) : (s.report cond).mem = s.mem := rfl
@[simp] theorem State.report_instrIn (s : State) (cond : Status) : (s.report cond).instrIn = s.instrIn := rfl
@[simp] theorem State.report_decIn (s : State) (cond : Status) : (s.report cond).decIn = s.decIn := rfl
@[simp] theorem State.report_charIn (s : State) (cond : Status) : (s.report cond).charIn = s.charIn := rfl
@[simp] theorem State.report_maskIn (s : State) (cond : Status) : (s.report cond).maskIn = s.maskIn := rfl
@[simp] theorem State.report_waiting (s : State) (cond : Status) : (s.report cond).waiting = none := rfl
@[simp] theorem State.report_status (s : State) (cond : Status) : (s.report cond).status = some cond := rfl
@[simp] theorem State.report_outDec (s : State) (cond : Status) : (s.report cond).outDec = s.outDec := rfl
@[simp] theorem State.report_outChar (s : State) (cond : Status) : (s.report cond).outChar = s.outChar := rfl
@[simp] theorem State.report_sent (s : State) (cond : Status) : (s.report cond).sent = s.sent := rfl

/-! ## Waiting for input (R141) -/

@[simp] theorem State.await_regs (s : State) (i : Instr) : (s.await i).regs = s.regs := rfl
@[simp] theorem State.await_mode (s : State) (i : Instr) : (s.await i).mode = s.mode := rfl
@[simp] theorem State.await_mem (s : State) (i : Instr) : (s.await i).mem = s.mem := rfl
@[simp] theorem State.await_instrIn (s : State) (i : Instr) : (s.await i).instrIn = s.instrIn := rfl
@[simp] theorem State.await_decIn (s : State) (i : Instr) : (s.await i).decIn = s.decIn := rfl
@[simp] theorem State.await_charIn (s : State) (i : Instr) : (s.await i).charIn = s.charIn := rfl
@[simp] theorem State.await_maskIn (s : State) (i : Instr) : (s.await i).maskIn = s.maskIn := rfl
@[simp] theorem State.await_waiting (s : State) (i : Instr) : (s.await i).waiting = some i := rfl
@[simp] theorem State.await_status (s : State) (i : Instr) : (s.await i).status = s.status := rfl
@[simp] theorem State.await_outDec (s : State) (i : Instr) : (s.await i).outDec = s.outDec := rfl
@[simp] theorem State.await_outChar (s : State) (i : Instr) : (s.await i).outChar = s.outChar := rfl
@[simp] theorem State.await_sent (s : State) (i : Instr) : (s.await i).sent = s.sent := rfl

/-! ## The first step's zero-fill (R79) -/

@[simp] theorem State.zeroFill_regs (s : State) : s.zeroFill.regs = Regs.zero := rfl
@[simp] theorem State.zeroFill_mode (s : State) : s.zeroFill.mode = .running := rfl
@[simp] theorem State.zeroFill_mem (s : State) : s.zeroFill.mem = s.mem := rfl
@[simp] theorem State.zeroFill_instrIn (s : State) : s.zeroFill.instrIn = s.instrIn := rfl
@[simp] theorem State.zeroFill_decIn (s : State) : s.zeroFill.decIn = s.decIn := rfl
@[simp] theorem State.zeroFill_charIn (s : State) : s.zeroFill.charIn = s.charIn := rfl
@[simp] theorem State.zeroFill_maskIn (s : State) : s.zeroFill.maskIn = s.maskIn := rfl
@[simp] theorem State.zeroFill_waiting (s : State) : s.zeroFill.waiting = s.waiting := rfl
@[simp] theorem State.zeroFill_status (s : State) : s.zeroFill.status = s.status := rfl
@[simp] theorem State.zeroFill_outDec (s : State) : s.zeroFill.outDec = s.outDec := rfl
@[simp] theorem State.zeroFill_outChar (s : State) : s.zeroFill.outChar = s.outChar := rfl
@[simp] theorem State.zeroFill_sent (s : State) : s.zeroFill.sent = s.sent := rfl

/-! ## The `IR` load (R80) -/

@[simp] theorem State.loadIR_regs (s : State) : s.loadIR.regs = { s.regs with ir := u24 (s.memRead s.regs.pc.toNat).toInt } := rfl
@[simp] theorem State.loadIR_mode (s : State) : s.loadIR.mode = s.mode := rfl
@[simp] theorem State.loadIR_mem (s : State) : s.loadIR.mem = s.mem := rfl
@[simp] theorem State.loadIR_instrIn (s : State) : s.loadIR.instrIn = s.instrIn := rfl
@[simp] theorem State.loadIR_decIn (s : State) : s.loadIR.decIn = s.decIn := rfl
@[simp] theorem State.loadIR_charIn (s : State) : s.loadIR.charIn = s.charIn := rfl
@[simp] theorem State.loadIR_maskIn (s : State) : s.loadIR.maskIn = s.maskIn := rfl
@[simp] theorem State.loadIR_waiting (s : State) : s.loadIR.waiting = s.waiting := rfl
@[simp] theorem State.loadIR_status (s : State) : s.loadIR.status = s.status := rfl
@[simp] theorem State.loadIR_outDec (s : State) : s.loadIR.outDec = s.outDec := rfl
@[simp] theorem State.loadIR_outChar (s : State) : s.loadIR.outChar = s.outChar := rfl
@[simp] theorem State.loadIR_sent (s : State) : s.loadIR.sent = s.sent := rfl

/-! ## The `PC` increment (R81) -/

@[simp] theorem State.incPC_regs (s : State) : s.incPC.regs = { s.regs with pc := u16 ((s.regs.pc.toNat : Int) + 1) } := rfl
@[simp] theorem State.incPC_mode (s : State) : s.incPC.mode = s.mode := rfl
@[simp] theorem State.incPC_mem (s : State) : s.incPC.mem = s.mem := rfl
@[simp] theorem State.incPC_instrIn (s : State) : s.incPC.instrIn = s.instrIn := rfl
@[simp] theorem State.incPC_decIn (s : State) : s.incPC.decIn = s.decIn := rfl
@[simp] theorem State.incPC_charIn (s : State) : s.incPC.charIn = s.charIn := rfl
@[simp] theorem State.incPC_maskIn (s : State) : s.incPC.maskIn = s.maskIn := rfl
@[simp] theorem State.incPC_waiting (s : State) : s.incPC.waiting = s.waiting := rfl
@[simp] theorem State.incPC_status (s : State) : s.incPC.status = s.status := rfl
@[simp] theorem State.incPC_outDec (s : State) : s.incPC.outDec = s.outDec := rfl
@[simp] theorem State.incPC_outChar (s : State) : s.incPC.outChar = s.outChar := rfl
@[simp] theorem State.incPC_sent (s : State) : s.incPC.sent = s.sent := rfl

/-! ## A new step's cleared ports (R40) -/

@[simp] theorem State.clearPorts_regs (s : State) : s.clearPorts.regs = s.regs := rfl
@[simp] theorem State.clearPorts_mode (s : State) : s.clearPorts.mode = s.mode := rfl
@[simp] theorem State.clearPorts_mem (s : State) : s.clearPorts.mem = s.mem := rfl
@[simp] theorem State.clearPorts_instrIn (s : State) : s.clearPorts.instrIn = s.instrIn := rfl
@[simp] theorem State.clearPorts_decIn (s : State) : s.clearPorts.decIn = s.decIn := rfl
@[simp] theorem State.clearPorts_charIn (s : State) : s.clearPorts.charIn = s.charIn := rfl
@[simp] theorem State.clearPorts_maskIn (s : State) : s.clearPorts.maskIn = s.maskIn := rfl
@[simp] theorem State.clearPorts_waiting (s : State) : s.clearPorts.waiting = s.waiting := rfl
@[simp] theorem State.clearPorts_status (s : State) : s.clearPorts.status = none := rfl
@[simp] theorem State.clearPorts_outDec (s : State) : s.clearPorts.outDec = none := rfl
@[simp] theorem State.clearPorts_outChar (s : State) : s.clearPorts.outChar = none := rfl
@[simp] theorem State.clearPorts_sent (s : State) : s.clearPorts.sent = s.sent := rfl

/-! ## The host's deliveries (R153) -/

@[simp] theorem State.deliver_regs (s : State) (d : Delivery) : (s.deliver d).regs = s.regs := by cases d <;> rfl
@[simp] theorem State.deliver_mode (s : State) (d : Delivery) : (s.deliver d).mode = s.mode := by cases d <;> rfl
@[simp] theorem State.deliver_mem (s : State) (d : Delivery) : (s.deliver d).mem = s.mem := by cases d <;> rfl
@[simp] theorem State.deliver_waiting (s : State) (d : Delivery) : (s.deliver d).waiting = s.waiting := by cases d <;> rfl
@[simp] theorem State.deliver_status (s : State) (d : Delivery) : (s.deliver d).status = s.status := by cases d <;> rfl
@[simp] theorem State.deliver_outDec (s : State) (d : Delivery) : (s.deliver d).outDec = s.outDec := by cases d <;> rfl
@[simp] theorem State.deliver_outChar (s : State) (d : Delivery) : (s.deliver d).outChar = s.outChar := by cases d <;> rfl
@[simp] theorem State.deliver_sent (s : State) (d : Delivery) : (s.deliver d).sent = s.sent := by cases d <;> rfl

end Sys2Proof.Machine
end

