-- ==== Sys2Proof/Laws/Ops.lean ====
section
/-! SUPPORT. What each shared operation and the step can do, said once: later proofs cite these and unfold none of the operations. -/

namespace Sys2Proof.Machine

open Sys2Proof.Safety

/-! ## Narrowing -/

theorem s16_toInt (v : Int) : (s16 v).toInt = v.bmod 65536 := by simp [s16]

theorem u16_toNat (v : Int) : ((u16 v).toNat : Int) = v % 65536 := by
  simp only [u16, BitVec.toNat_ofInt]; omega

theorem u24_toNat (v : Int) : ((u24 v).toNat : Int) = v % 16777216 := by
  simp only [u24, BitVec.toNat_ofInt]; omega

/-- A natural number that fits is written to a register as it is. -/
theorem s16_natCast_toNat {n : Nat} (h : n < 65536) : (s16 (n : Int)).toNat = n := by
  simp only [s16, BitVec.toNat_ofInt]; omega

theorem u16_natCast_toNat {n : Nat} (h : n < 65536) : (u16 (n : Int)).toNat = n := by
  simp only [u16, BitVec.toNat_ofInt]; omega

/-! ## Completing, and taking an input -/

theorem complete_eq (s : State) : s.complete = .next (s.report .ok) := rfl

/-- An input instruction takes the first delivered value and completes, or waits. -/
theorem withDec_cons {s : State} {v : Cell} {rest : List Cell} (h : s.decIn = v :: rest) (i : Instr) (f : Cell → State → State) :
    s.withDec i f = .next ((f v { s with decIn := rest }).report .ok) := by simp [State.withDec, h, State.complete]

theorem withDec_nil {s : State} (h : s.decIn = []) (i : Instr) (f : Cell → State → State) :
    s.withDec i f = .next (s.await i) := by simp [State.withDec, h]

theorem withChar_cons {s : State} {c : Byte} {rest : List Byte} (h : s.charIn = c :: rest) (i : Instr) (f : Byte → State → State) :
    s.withChar i f = .next ((f c { s with charIn := rest }).report .ok) := by simp [State.withChar, h, State.complete]

theorem withChar_nil {s : State} (h : s.charIn = []) (i : Instr) (f : Byte → State → State) :
    s.withChar i f = .next (s.await i) := by simp [State.withChar, h]

theorem withMask_cons {s : State} {m : Byte} {rest : List Byte} (h : s.maskIn = m :: rest) (i : Instr) (f : Byte → State → State) :
    s.withMask i f = .next ((f m { s with maskIn := rest }).report .ok) := by simp [State.withMask, h, State.complete]

theorem withMask_nil {s : State} (h : s.maskIn = []) (i : Instr) (f : Byte → State → State) :
    s.withMask i f = .next (s.await i) := by simp [State.withMask, h]

/-! ## The common part of the step -/

/-- The first step's common part (R79, R81). -/
theorem beginStep_uninitialized {s : State} (h : s.mode = .uninitialized) (rest : List InstrWord) :
    s.beginStep rest = { s with regs := { Regs.zero with pc := 1 }, mode := .running, instrIn := rest, status := none,
                                outDec := none, outChar := none } := by
  simp only [State.beginStep, State.initOrLoad, h]; rfl

/-- Every later step's common part (R80, R81). -/
theorem beginStep_running {s : State} (h : s.mode = .running) (rest : List InstrWord) :
    s.beginStep rest = { s with regs := { s.regs with ir := u24 (s.mem.read s.regs.pc.toNat).toInt, pc := u16 ((s.regs.pc.toNat : Int) + 1) },
                                instrIn := rest, status := none, outDec := none, outChar := none } := by
  simp only [State.beginStep, State.initOrLoad, h]; rfl

/-! ## The step -/

theorem step_waiting {s : State} {i : Instr} (h : s.waiting = some i) : step s = exec i s := by simp [step, h]

theorem step_idle {s : State} (h : s.waiting = none) (h' : s.instrIn = []) : step s = .next s := by
  simp [step, h, State.takeInstr, h']

theorem step_word {s : State} {w : InstrWord} {rest : List InstrWord} (h : s.waiting = none) (h' : s.instrIn = w :: rest) :
    step s = dispatch w (s.beginStep rest) := by simp [step, h, State.takeInstr, h']

theorem dispatch_instr {w : InstrWord} {i : Instr} (h : decode w = .instr i) (s : State) : dispatch w s = exec i s := by
  simp [dispatch, h]

theorem dispatch_invalid {w : InstrWord} {op : Byte} (h : decode w = .invalidOpcode op) (s : State) :
    dispatch w s = .next (s.report .invalidOpcode) := by simp [dispatch, h, State.invalidOpcode]

/-- What a step can do, whole: it goes on waiting or completes the waiting instruction, does nothing, or runs the next word. -/
theorem step_cases (s : State) :
    (∃ i, s.waiting = some i ∧ step s = exec i s) ∨ (s.waiting = none ∧ s.instrIn = [] ∧ step s = .next s) ∨
    (∃ w rest, s.waiting = none ∧ s.instrIn = w :: rest ∧ step s = dispatch w (s.beginStep rest)) := by
  cases h : s.waiting with
  | some i => exact .inl ⟨i, rfl, step_waiting h⟩
  | none =>
    cases h' : s.instrIn with
    | nil => exact .inr (.inl ⟨rfl, rfl, step_idle h h'⟩)
    | cons w rest => exact .inr (.inr ⟨w, rest, rfl, rfl, step_word h h'⟩)

end Sys2Proof.Machine
end

