-- ==== Sys2Proof/Laws/PerInstr.lean ====
section
/-! SUPPORT. One lemma per instruction, family `EncodeFields`: the encoding holds the row's opcode and the address field, each in
its place (spec/30_encoding.md rules R65, R72). -/

namespace Sys2Proof.Laws.EncodeFields

/-- The two fields of an instruction's word. -/
def Statement (i : Instr) : Prop := opcodeOf (encode i) = i.opcode ∧ addressOf (encode i) = i.addr

/-- Both fields of any joined word. -/
theorem of_join (i : Instr) : Statement i := ⟨opcodeOf_joinWord _ _, addressOf_joinWord _ _⟩

theorem stop (addr : Word) : Statement (.stop addr) := of_join _
theorem notA (addr : Word) : Statement (.notA addr) := of_join _
theorem notX (addr : Word) : Statement (.notX addr) := of_join _
theorem shlA (addr : Word) : Statement (.shlA addr) := of_join _
theorem shlX (addr : Word) : Statement (.shlX addr) := of_join _
theorem shrA (addr : Word) : Statement (.shrA addr) := of_join _
theorem shrX (addr : Word) : Statement (.shrX addr) := of_join _
theorem rolA (addr : Word) : Statement (.rolA addr) := of_join _
theorem rolX (addr : Word) : Statement (.rolX addr) := of_join _
theorem rorA (addr : Word) : Statement (.rorA addr) := of_join _
theorem rorX (addr : Word) : Statement (.rorX addr) := of_join _
theorem deci (addr : Word) : Statement (.deci addr) := of_join _
theorem deco (addr : Word) : Statement (.deco addr) := of_join _
theorem chari (addr : Word) : Statement (.chari addr) := of_join _
theorem charo (addr : Word) : Statement (.charo addr) := of_join _
theorem addA (addr : Word) : Statement (.addA addr) := of_join _
theorem addX (addr : Word) : Statement (.addX addr) := of_join _
theorem subA (addr : Word) : Statement (.subA addr) := of_join _
theorem subX (addr : Word) : Statement (.subX addr) := of_join _
theorem andA (addr : Word) : Statement (.andA addr) := of_join _
theorem andX (addr : Word) : Statement (.andX addr) := of_join _
theorem orA (addr : Word) : Statement (.orA addr) := of_join _
theorem orX (addr : Word) : Statement (.orX addr) := of_join _
theorem ldrA (addr : Word) : Statement (.ldrA addr) := of_join _
theorem ldrX (addr : Word) : Statement (.ldrX addr) := of_join _
theorem ldbyte (addr : Word) : Statement (.ldbyte addr) := of_join _
theorem strA (addr : Word) : Statement (.strA addr) := of_join _
theorem strX (addr : Word) : Statement (.strX addr) := of_join _
theorem stbyte (addr : Word) : Statement (.stbyte addr) := of_join _

end Sys2Proof.Laws.EncodeFields
end

