-- ==== Sys2Proof/Tests/Slice0.lean ====
section
/-! SUPPORT. Tests of the model on the spec's own values: the encodings of spec/30_encoding.md rule R72 written out bit by bit, the
worked examples and vectors of spec/95_test_vectors.md, an ill-formed term for each well-formedness check, and for each statement
with hypotheses a concrete case that meets them. -/

namespace Sys2Proof.Tests

open Sys2Proof.Machine Sys2Proof.Safety

/-! ## Helpers -/

/-- A check of the next state; false for any other answer. -/
def after (o : Answer) (p : State → Bool) : Bool :=
  match o with
  | .next t => p t
  | .fault _ => false
  | .refused _ => false

/-- A running core with `A`, `X`, `PC` and memory given. -/
def running (a x pc : Int) (m : Memory) : State :=
  { State.reset with regs := { a := s16 a, x := u16 x, pc := u16 pc, sp := 0, ir := 0 }, mode := .running, mem := m }

/-- The same core with words on the instruction port. -/
def runningWith (a x pc : Int) (m : Memory) (words : List InstrWord) : State := { running a x pc m with instrIn := words }

/-! ## Well-formedness: the checks refuse -/

theorem test_wf_address_20_bits : addressInRange 0x10000 = false := by decide
theorem test_wf_address_last_cell : addressInRange 0xFFFF = true := by decide
theorem test_wf_raw_opcode : RawInstr.wellFormed { opcode := 256, address := 0 } = false := by decide
theorem test_wf_raw_address : RawInstr.wellFormed { opcode := 0x30, address := 0xFFFE0 } = false := by decide
theorem test_wf_raw_good : RawInstr.wellFormed { opcode := 0x30, address := 0xFFFE } = true := by decide
theorem test_wf_instr : Instr.wellFormed (.deci 0xFFFF#16) = true := by decide
theorem test_wf_line_length : lineWellFormed "30FFFE0".toList = false := by decide
theorem test_wf_line_character : lineWellFormed "30FFFG".toList = false := by decide
theorem test_wf_line_good : lineWellFormed "30ffFE".toList = true := by decide
theorem test_wf_mask_length : maskTextWellFormed "0000111".toList = false := by decide
theorem test_wf_mask_digit : maskTextWellFormed "00001112".toList = false := by decide
theorem test_wf_decimal_high : decimalInRange 2147483648 = false := by decide
theorem test_wf_decimal_low : decimalInRange (-2147483649) = false := by decide
theorem test_wf_char_code : charCodeInRange 256 = false := by decide

/-! ## Decoding: every row's word, bit by bit (R72) -/

theorem test_decode_stop : decode 0b000000000000000000000000#24 = .instr (.stop 0b0000000000000000#16) := by decide
theorem test_decode_notA : decode 0b000110001111111111111111#24 = .instr (.notA 0b1111111111111111#16) := by decide
theorem test_decode_notX : decode 0b000110011000000000000001#24 = .instr (.notX 0b1000000000000001#16) := by decide
theorem test_decode_shlA : decode 0b000111000000000000010000#24 = .instr (.shlA 0b0000000000010000#16) := by decide
theorem test_decode_shlX : decode 0b000111010100000000000000#24 = .instr (.shlX 0b0100000000000000#16) := by decide
theorem test_decode_shrA : decode 0b000111100000000000000000#24 = .instr (.shrA 0b0000000000000000#16) := by decide
theorem test_decode_shrX : decode 0b000111111111111111111111#24 = .instr (.shrX 0b1111111111111111#16) := by decide
theorem test_decode_rolA : decode 0b001000001000000000000001#24 = .instr (.rolA 0b1000000000000001#16) := by decide
theorem test_decode_rolX : decode 0b001000010000000000010000#24 = .instr (.rolX 0b0000000000010000#16) := by decide
theorem test_decode_rorA : decode 0b001000100100000000000000#24 = .instr (.rorA 0b0100000000000000#16) := by decide
theorem test_decode_rorX : decode 0b001000110000000000000000#24 = .instr (.rorX 0b0000000000000000#16) := by decide
theorem test_decode_deci : decode 0b001100001111111111111111#24 = .instr (.deci 0b1111111111111111#16) := by decide
theorem test_decode_deco : decode 0b001110001000000000000001#24 = .instr (.deco 0b1000000000000001#16) := by decide
theorem test_decode_chari : decode 0b010010000000000000010000#24 = .instr (.chari 0b0000000000010000#16) := by decide
theorem test_decode_charo : decode 0b010100000100000000000000#24 = .instr (.charo 0b0100000000000000#16) := by decide
theorem test_decode_addA : decode 0b011100000000000000000000#24 = .instr (.addA 0b0000000000000000#16) := by decide
theorem test_decode_addX : decode 0b011110001111111111111111#24 = .instr (.addX 0b1111111111111111#16) := by decide
theorem test_decode_subA : decode 0b100000001000000000000001#24 = .instr (.subA 0b1000000000000001#16) := by decide
theorem test_decode_subX : decode 0b100010000000000000010000#24 = .instr (.subX 0b0000000000010000#16) := by decide
theorem test_decode_andA : decode 0b100100000100000000000000#24 = .instr (.andA 0b0100000000000000#16) := by decide
theorem test_decode_andX : decode 0b100110000000000000000000#24 = .instr (.andX 0b0000000000000000#16) := by decide
theorem test_decode_orA : decode 0b101000001111111111111111#24 = .instr (.orA 0b1111111111111111#16) := by decide
theorem test_decode_orX : decode 0b101010001000000000000001#24 = .instr (.orX 0b1000000000000001#16) := by decide
theorem test_decode_ldrA : decode 0b110000000000000000010000#24 = .instr (.ldrA 0b0000000000010000#16) := by decide
theorem test_decode_ldrX : decode 0b110010000100000000000000#24 = .instr (.ldrX 0b0100000000000000#16) := by decide
theorem test_decode_ldbyte : decode 0b110100000000000000000000#24 = .instr (.ldbyte 0b0000000000000000#16) := by decide
theorem test_decode_strA : decode 0b111000001111111111111111#24 = .instr (.strA 0b1111111111111111#16) := by decide
theorem test_decode_strX : decode 0b111010001000000000000001#24 = .instr (.strX 0b1000000000000001#16) := by decide
theorem test_decode_stbyte : decode 0b111100000000000000010000#24 = .instr (.stbyte 0b0000000000010000#16) := by decide
theorem test_decode_invalid_next_to_stop : decode 0x010000#24 = .invalidOpcode 0x01#8 := by decide
theorem test_decode_invalid_mode_bits : decode 0x710005#24 = .invalidOpcode 0x71#8 := by decide
theorem test_decode_invalid_byte_forms : decode 0xD80005#24 = .invalidOpcode 0xD8#8 ∧ decode 0xF80005#24 = .invalidOpcode 0xF8#8 := by decide
/-- R75: 227 of the 256 opcodes are invalid. -/
theorem test_decode_count : opcodeMap.length = 256 - 227 ∧ (opcodeMap.map Prod.fst).Nodup := by decide
theorem test_table_word : decodeTableWord 24 0x780005 = some (.addX 0x0005#16) := by decide
/-- R77's examples. -/
theorem test_asm_forms : (Instr.rolX 0#16).asm = "ROL X" ∧ (Instr.addA 0x10#16).asm = "ADD A, 0x0010" ∧ (Instr.deci 0xFFFE#16).asm = "DECI 0xFFFE" ∧ (Instr.stop 7#16).asm = "STOP" := by decide
theorem test_assemble : assemble (.rolX 0x1234#16) = 0x210000#24 ∧ assemble (.addA 0x10#16) = 0x700010#24 := by decide

/-! ## Text (S1, S2; R61 to R64, R118, R107) -/

theorem test_hex2bin_case : hex2bin "fe".toList = hex2bin "FE".toList ∧ (hex2bin "30FFFE".toList).map List.length = some 24 := by decide
theorem test_line_split : readLine "30FFFE".toList = .word 0x30FFFE#24 := by decide
theorem test_line_sentinel : readLine "-1".toList = .sentinel := by decide
theorem test_line_wrong_length : readLine "30FFF".toList = .wrongLength := by decide
theorem test_line_malformed : readLine "30FFxE".toList = .malformedHex := by decide
theorem test_mask_text : maskOfText "00001111".toList = some 15#8 ∧ maskOfText "0000111".toList = none := by decide
theorem test_decimal_text : decimalText (s32 (-5)) = "-5".toList ∧ decimalText (s32 65535) = "65535".toList := by decide
theorem test_decimal_input : decOfText "-5".toList = some (s32 (-5)) ∧ decOfText "2147483648".toList = none ∧ decOfText "4x".toList = none := by decide

/-! ## Digit strings (S3, S8; R21, R104) -/

theorem test_bin_zero : bin 0 = [] ∧ bin 5 = [true, false, true] := by decide
theorem test_rotate_loss : rold 5 = 3 ∧ rord (rold 5) = 3 ∧ rord (rold 6) = 6 ∧ rord (rold 0xC000) = 0xC000 := by decide

/-! ## The engine (section 2.1) -/

theorem test_first_step : after (step ({ State.reset with mem := [(0, 0x1234#32)] }.withFetchWord 24 0x000000)) (fun t => t.regs == { a := 0, x := 0, pc := 1, sp := 0, ir := 0 } && t.status == some .stop && t.mode == .running) = true := by decide
theorem test_ir_before_increment : after (step (runningWith 0 0 5 [(5, 0x123456#32)] [0x000000#24])) (fun t => t.regs.ir == 0x123456#24 && t.regs.pc == 6) = true := by decide
theorem test_ir_narrowed : after (step (runningWith 0 0 5 [(5, s32 (-1))] [0x000000#24])) (fun t => t.regs.ir == 0xFFFFFF#24) = true := by decide
theorem test_pc_wrap : after (step (runningWith 0 0 0xFFFF [] [0x000000#24])) (fun t => t.regs.pc == 0) = true := by decide
theorem test_invalid_running : after (step (runningWith 5 0 3 [] [0x010000#24])) (fun t => t.regs.a == 5 && t.regs.pc == 4 && t.regs.ir == 0 && t.status == some .invalidOpcode) = true := by decide
theorem test_invalid_first : after (step (State.reset.withFetchWord 24 0x010000)) (fun t => t.regs.pc == 1 && t.status == some .invalidOpcode && t.mode == .running) = true := by decide
theorem test_idle : after (step State.reset) (fun t => t == State.reset) = true := by decide
theorem test_malformed_line_no_step : State.reset.deliverLine "3xFFFE".toList = State.reset := by decide
theorem test_core_reset : Sys2Proof.core.reset = State.reset := rfl

/-! ## STOP and the unary instructions (S4; section 2.2) -/

theorem test_stop : after (step (runningWith 5 7 3 [(3, 9#32)] [0x000000#24])) (fun t => t.regs == { a := 5, x := 7, pc := 4, sp := 0, ir := 9 } && t.status == some .stop) = true := by decide
theorem test_notA_5 : after (exec (.notA 0xBEEF#16) (running 5 0 0 [])) (fun t => t.valA == 2) = true := by decide
theorem test_notA_min : after (exec (.notA 0xBEEF#16) (running (-32768) 0 0 [])) (fun t => t.valA == 32767) = true := by decide
theorem test_notX_1234 : after (exec (.notX 0xBEEF#16) (running 0 0x1234 0 [])) (fun t => t.valX == 0x0DCB) = true := by decide
theorem test_notX_ffff : after (exec (.notX 0xBEEF#16) (running 0 0xFFFF 0 [])) (fun t => t.valX == 0) = true := by decide
theorem test_shlA_overflow : after (exec (.shlA 0xBEEF#16) (running 16384 0 0 [])) (fun t => t.valA == -32768) = true := by decide
theorem test_shlA_neg : after (exec (.shlA 0xBEEF#16) (running (-1) 0 0 [])) (fun t => t.valA == -2) = true := by decide
theorem test_shlX_from_A : after (exec (.shlX 0xBEEF#16) (running 3 100 0 [])) (fun t => t.valX == 6 && t.valA == 3) = true := by decide
theorem test_shlX_neg : after (exec (.shlX 0xBEEF#16) (running (-1) 0 0 [])) (fun t => t.valX == 65534) = true := by decide
theorem test_shrA_floor : after (exec (.shrA 0xBEEF#16) (running (-3) 0 0 [])) (fun t => t.valA == -2) = true := by decide
theorem test_shrA_min : after (exec (.shrA 0xBEEF#16) (running (-32768) 0 0 [])) (fun t => t.valA == -16384) = true := by decide
theorem test_shrX_logical : after (exec (.shrX 0xBEEF#16) (running 0 0xFFFF 0 [])) (fun t => t.valX == 0x7FFF) = true := by decide
theorem test_rolA_5 : after (exec (.rolA 0xBEEF#16) (running 5 0 0 [])) (fun t => t.valA == 3) = true := by decide
theorem test_rolA_neg : after (exec (.rolA 0xBEEF#16) (running (-2) 0 0 [])) (fun t => t.valA == -3) = true := by decide
theorem test_rolX_41 : after (exec (.rolX 0xBEEF#16) (running 0 0x0041 0 [])) (fun t => t.valX == 3) = true := by decide
theorem test_rolX_c000 : after (exec (.rolX 0xBEEF#16) (running 0 0xC000 0 [])) (fun t => t.valX == 0x8001) = true := by decide
theorem test_rorA_5 : after (exec (.rorA 0xBEEF#16) (running 5 0 0 [])) (fun t => t.valA == 6) = true := by decide
theorem test_rorA_neg : after (exec (.rorA 0xBEEF#16) (running (-32767) 0 0 [])) (fun t => t.valA == -16384) = true := by decide
theorem test_rorX_2 : after (exec (.rorX 0xBEEF#16) (running 0 2 0 [])) (fun t => t.valX == 1) = true := by decide
theorem test_rorX_8001 : after (exec (.rorX 0xBEEF#16) (running 0 0x8001 0 [])) (fun t => t.valX == 0xC000) = true := by decide

/-! ## Input and output (S5; section 2.3) -/

theorem test_deci_negative : after (exec (.deci 0x40#16) { running 0 0 0 [] with decIn := [s32 (-5)] }) (fun t => (t.memRead 0x40).toInt == -5 && t.decIn == []) = true := by decide
theorem test_deci_waits : after (step (State.reset.withFetchWord 24 0x30FFFE)) (fun t => t.inReq == .dec && t.status == none && t.regs.pc == 1 && t.mem == []) = true := by decide
theorem test_deco_negative : after (exec (.deco 0x40#16) (running 0 0 0 [(0x40, s32 (-5))])) (fun t => t.outDec == some (s32 (-5)) && t.sent == [.dec (s32 (-5))]) = true := by decide
theorem test_deco_unwritten : after (exec (.deco 0x40#16) (running 0 0 0 [])) (fun t => t.outDec == some 0#32) = true := by decide
theorem test_chari_zero_extended : after (exec (.chari 0x41#16) { running 0 0 0 [] with charIn := [0xE9#8] }) (fun t => (t.memRead 0x41).toInt == 233) = true := by decide
theorem test_chari_waits : after (exec (.chari 0x41#16) (running 0 0 0 [])) (fun t => t.inReq == .char && t.mem == []) = true := by decide
theorem test_charo_low_byte : after (exec (.charo 0x41#16) (running 0 0 0 [(0x41, 321#32)])) (fun t => t.outChar == some 65#8) = true := by decide
theorem test_charo_minus_one : after (exec (.charo 0x41#16) (running 0 0 0 [(0x41, s32 (-1))])) (fun t => t.outChar == some 0xFF#8) = true := by decide

/-! ## Arithmetic and logic (S6; section 2.4) -/

theorem test_addA_source : after (exec (.addA 0x20#16) (running 5 9 0 [(0x20, 3#32)])) (fun t => t.valA == 8 && t.valX == 9) = true := by decide
theorem test_addA_wide_cell : after (exec (.addA 0x20#16) (running 5 0 0 [(0x20, 70000#32)])) (fun t => t.valA == 4469) = true := by decide
theorem test_addX_minus_one : after (exec (.addX 0x20#16) (running 0 0 0 [(0x20, s32 (-1))])) (fun t => t.valX == 65535 && t.valA == 0) = true := by decide
theorem test_addX_wrap : after (exec (.addX 0x20#16) (running 0 0xFFFF 0 [(0x20, 1#32)])) (fun t => t.valX == 0) = true := by decide
theorem test_subA_wide_cell : after (exec (.subA 0x20#16) (running 5 0 0 [(0x20, 70000#32)])) (fun t => t.valA == -4459) = true := by decide
theorem test_subA_min : after (exec (.subA 0x20#16) (running (-32768) 0 0 [(0x20, s32 (-1))])) (fun t => t.valA == -32767) = true := by decide
theorem test_subX_underflow : after (exec (.subX 0x20#16) (running 0 0 0 [(0x20, 1#32)])) (fun t => t.valX == 0xFFFF) = true := by decide
theorem test_subX_65536 : after (exec (.subX 0x20#16) (running 0 1 0 [(0x20, 65536#32)])) (fun t => t.valX == 1) = true := by decide
theorem test_andA_high_byte : after (exec (.andA 0x20#16) { running 300 0 0 [(0x20, 7#32)] with maskIn := [0b11111111#8] }) (fun t => t.valA == 44) = true := by decide
theorem test_andA_negative : after (exec (.andA 0x20#16) { running (-3) 0 0 [(0x20, 7#32)] with maskIn := [0b00001111#8] }) (fun t => t.valA == 13) = true := by decide
theorem test_andX_fffc : after (exec (.andX 0x20#16) { running 0 0xFFFC 0 [(0x20, 7#32)] with maskIn := [0b11110000#8] }) (fun t => t.valX == 240) = true := by decide
theorem test_orA_is_and : after (exec (.orA 0x20#16) { running 0x00F5 0 0 [(0x20, 7#32)] with maskIn := [0b00001111#8] }) (fun t => t.valA == 5) = true := by decide
theorem test_orA_zero : after (exec (.orA 0x20#16) { running 0 0 0 [(0x20, 7#32)] with maskIn := [0b11111111#8] }) (fun t => t.valA == 0) = true := by decide
theorem test_orX_is_and : after (exec (.orX 0x20#16) { running 0 0xFFFC 0 [(0x20, 7#32)] with maskIn := [0b11110000#8] }) (fun t => t.valX == 240) = true := by decide
theorem test_andX_waits : after (exec (.andX 0#16) (running 0 1 0 [])) (fun t => t.inReq == .mask && t.valX == 1) = true := by decide
theorem test_or_conventional : (orA false 0b00001111#8 (running 0x00F5 0 0 [])).valA = 255 ∧ (orX false 0b11110000#8 (running 0 0xFFFC 0 [])).valX = 65532 := by decide

/-! ## Loads and stores (section 2.5) -/

theorem test_ldrA_40000 : after (exec (.ldrA 0x10#16) (running 0 0 0 [(0x10, 40000#32)])) (fun t => t.valA == -25536) = true := by decide
theorem test_ldrA_65536 : after (exec (.ldrA 0x10#16) (running 9 0 0 [(0x10, 65536#32)])) (fun t => t.valA == 0) = true := by decide
theorem test_ldrX_minus_one : after (exec (.ldrX 0x10#16) (running 0 0 0 [(0x10, s32 (-1))])) (fun t => t.valX == 65535) = true := by decide
theorem test_ldrX_65537 : after (exec (.ldrX 0x10#16) (running 0 0 0 [(0x10, 65537#32)])) (fun t => t.valX == 1) = true := by decide
theorem test_ldbyte_300 : after (exec (.ldbyte 0x10#16) (running 0 0 0 [(0x10, 300#32)])) (fun t => t.valA == 300) = true := by decide
theorem test_strA_minus_one : after (exec (.strA 0x10#16) (running (-1) 0 0 [])) (fun t => (t.memRead 0x10).toInt == -1) = true := by decide
theorem test_strA_zero_unlisted : after (exec (.strA 0x10#16) (running 0 0 0 [(0x10, 7#32), (0x11, 8#32)])) (fun t => t.mem == [(0x11, 8#32)]) = true := by decide
theorem test_strX_ffff : after (exec (.strX 0xFFFF#16) (running 0 0xFFFF 0 [(2, 1#32)])) (fun t => t.mem == [(2, 1#32), (0xFFFF, 65535#32)]) = true := by decide
theorem test_stbyte_300 : after (exec (.stbyte 0x10#16) (running 300 0 0 [])) (fun t => (t.memRead 0x10).toInt == 300) = true := by decide

/-! ## Witnesses: concrete cases that meet the hypotheses of the statements -/

theorem witness_ExactOpcodeMatch : decode 0xF0FFFF#24 = .instr (.stbyte 0xFFFF#16) ∧ (Instr.addA 0#16).group = .memory ∧ (1#3 ≠ 0) ∧ (7#3 ≠ 0) := by decide
theorem witness_ExactOpcodeMatch_rejected : ∀ i, decode 0xFF0000#24 ≠ .instr i := by
  intro i
  rw [show decode 0xFF0000#24 = .invalidOpcode 0xFF#8 by decide]
  exact Decoded.noConfusion
theorem witness_RegisterSelectBit : (Instr.rorX 0#16).group = .unary ∧ (Instr.strX 0#16).group = .memory ∧ (Instr.stbyte 0#16).group = .noSelect := by decide
theorem witness_HexDigitStrings : (∀ c ∈ ['0', '9', 'A', 'F', 'a', 'f'], isHexDigit c = true) ∧ hex2bin ['f'] = some [true, true, true, true] :=
  ⟨by simp; decide, by decide⟩
theorem witness_HexDigitStrings_error : isHexDigit 'G' = false ∧ isHexDigit '/' = false ∧ isHexDigit ':' = false ∧ isHexDigit '@' = false := by decide
theorem witness_OnlyWellFormedLinesAreDelivered : lineWellFormed "-1".toList = false ∧ lineWellFormed "00000@".toList = false ∧ lineWellFormed "FFFFFF".toList = true := by decide
theorem witness_MinimalDigitString : 0 < 1 ∧ (List.head? [true, false] = some true) := by decide
theorem witness_DigitLengthBounds : 0 < 65535 := by decide
theorem witness_StepRunsDecodedInstruction : (runningWith 0 0 0 [] [0x700010#24]).waiting = none ∧ (runningWith 0 0 0 [] [0x700010#24]).instrIn = [0x700010#24] ∧ decode 0x700010#24 = .instr (.addA 0x10#16) := by decide
theorem witness_StepRunsDecodedInstruction_waiting : ((running 0 0 0 []).await (.deci 5#16)).waiting = some (.deci 5#16) := rfl
theorem witness_FirstStepZeroFills : State.reset.mode = .uninitialized ∧ (State.reset.withFetchWord 24 0).waiting = none ∧ (State.reset.withFetchWord 24 0).instrIn = [0#24] := by decide
theorem witness_RunningStepLoadsIRAndCountsPC : (runningWith 0 0 0xFFFF [] [0x300000#24]).mode = .running ∧ (runningWith 0 0 0xFFFF [] [0x300000#24]).waiting = none ∧ (runningWith 0 0 0xFFFF [] [0x300000#24]).instrIn = [0x300000#24] := by decide
theorem witness_EffectsIgnorePCSPAndIR : ∃ t, exec (.deci 5#16) { running 1 2 3 [] with decIn := [7#32] } = .next t := ⟨_, rfl⟩
theorem witness_StopOnlyReportsStop : (State.reset.waiting = none) ∧ (runningWith 0 0 0 [] [joinWord 0x00#8 3#16, 0x190000#24]).instrIn = joinWord 0x00#8 3#16 :: 0x190000#24 :: [] := by decide
theorem witness_InvalidOpcodeOnlyReports : opcodeOf 0x710005#24 ∉ opcodeMap.map Prod.fst ∧ opcodeOf 0xFF0000#24 ∉ opcodeMap.map Prod.fst ∧ (runningWith 5 0 3 [] [0x710005#24]).waiting = none ∧ (State.reset.withFetchWord 24 0x710005).instrIn = [0x710005#24] := by decide
theorem witness_InvalidOpcodeOnlyReports_lowBits : (Instr.ldrX 0#16).group = .memory ∧ (4#3 ≠ 0) ∧ 0xF8#8 ∈ [0x71#8, 0xD8#8, 0xF8#8] := by decide
theorem witness_StatusOfCompletedStep_completed : after (step (runningWith 0 0 0 [] [0x700010#24])) (fun t => t.waiting == none && t.status == some .ok) = true := by decide
theorem witness_StatusOfCompletedStep_waiting : after (step (runningWith 0 0 0 [] [0x900000#24])) (fun t => t.waiting == some (.andA 0#16) && t.status == none) = true := by decide
theorem witness_ModeChangesOnce : (running 0 0 0 []).mode = .running ∧ ∃ t, step (runningWith 0 0 0 [] [0#24]) = .next t := ⟨rfl, _, rfl⟩
theorem witness_ResetRegistersUnobservable : State.reset.mode = .uninitialized ∧ State.reset.waiting = none ∧ (State.reset.withFetchWord 24 0x180000).instrIn ≠ [] := by decide
theorem witness_IgnoredAddressHasNoEffect : (Instr.orX 1#16).usesAddress = false ∧ ¬ InputMissing (.orX 1#16) { running 0 0 0 [] with maskIn := [1#8] } ∧ (Instr.stop 1#16).usesAddress = false ∧ ¬ InputMissing (.stop 1#16) (running 0 0 0 []) := by
  refine ⟨rfl, ?_, rfl, fun h => h⟩
  simp [InputMissing, inReqOf]
theorem witness_InputInstructionsBlock : InputMissing (.deci 0#16) State.reset ∧ Answers (.deci 0#16) (.dec 7#32) ∧ InputMissing (.chari 0#16) State.reset ∧ Answers (.chari 0#16) (.char 7#8) ∧ InputMissing (.andA 0#16) State.reset ∧ Answers (.andA 0#16) (.mask 7#8) := ⟨rfl, trivial, rfl, trivial, rfl, trivial⟩
theorem witness_LateInputGivesSameResult : (State.reset.withFetchWord 24 0x300010).waiting = none ∧ (State.reset.withFetchWord 24 0x300010).instrIn = [0x300010#24] ∧ decode 0x300010#24 = .instr (.deci 0x10#16) ∧ InputMissing (.deci 0x10#16) (State.reset.withFetchWord 24 0x300010) ∧ Answers (.deci 0x10#16) (.dec 7#32) := ⟨rfl, rfl, by decide, rfl, trivial⟩
theorem witness_OnlyFiveInstructionsWriteMemory : storeTarget (.strA 0#16) ≠ some 1 ∧ storeTarget (.ldrA 0#16) ≠ some 0 := by decide
theorem witness_EqualReadsEqualMemory : Memory.wf [(0, 1#32), (0xFFFF, 2#32)] ∧ ∀ a, Memory.read [(0, 1#32), (0xFFFF, 2#32)] a = Memory.read (Memory.write [(0, 1#32)] 0xFFFF 2#32) a := ⟨by decide, fun _ => rfl⟩
theorem witness_StepKeepsInvariant : Inv (runningWith 1 2 3 [(0, 1#32), (0xFFFF, 2#32)] [0xE00005#24]) ∧ ∃ t, step (runningWith 1 2 3 [(0, 1#32), (0xFFFF, 2#32)] [0xE00005#24]) = .next t := by
  refine ⟨⟨by decide, fun _ => rfl, fun h => ?_, fun i h => ?_⟩, _, rfl⟩ <;> cases h
theorem witness_DeliveryKeepsInvariant : Inv (running 0 0 0 [(7, 7#32)]) := by
  refine ⟨by decide, fun _ => rfl, fun h => ?_, fun i h => ?_⟩ <;> cases h
theorem witness_StackPointerZeroForEver : ∃ s, Reachable s ∧ s.mode = .running :=
  ⟨_, .step (.deliver (.instr 0#24) .reset) rfl, rfl⟩
theorem witness_StoreSeenByNextIRLoad : (runningWith (-1) 0 0xFFFF [] [joinWord 0xE0#8 0#16, 0x000000#24]).mode = .running ∧ (0#16).toNat = ((runningWith (-1) 0 0xFFFF [] []).regs.pc.toNat + 1) % 65536 ∧ (runningWith (-1) 0 0xFFFF [] [joinWord 0xE0#8 0#16, 0x000000#24]).instrIn = joinWord 0xE0#8 0#16 :: 0x000000#24 :: [] ∧ (runningWith (-1) 0 0xFFFF [] []).waiting = none := by decide
theorem witness_AnyStoreSeenByNextIRLoad_firstStep : storeTarget (.deci 1#16) = some (({ State.reset with decIn := [0x80000000#32] } : State).beginStep [0#24]).regs.pc.toNat ∧ storedValue (.deci 1#16) (({ State.reset with decIn := [0x80000000#32] } : State).beginStep [0#24]) = some (-2147483648) ∧ decode 0x300001#24 = .instr (.deci 1#16) := by decide
theorem witness_AnyStoreSeenByNextIRLoad_running : storeTarget (.strX 0#16) = some ((running 0 0xFFFF 0xFFFF []).beginStep [0#24]).regs.pc.toNat ∧ storedValue (.strX 0#16) ((running 0 0xFFFF 0xFFFF []).beginStep [0#24]) = some 65535 ∧ storedValue (.strA 0#16) (running (-32768) 0 0 []) = some (-32768) ∧ storedValue (.stbyte 0#16) (running (-1) 0 0 []) = some (-1) ∧ storedValue (.chari 0#16) { running 0 0 0 [] with charIn := [0xFF#8] } = some 255 := by decide
theorem witness_RotateLeftDigits : 0 ≤ (running 0 0 0 []).regs.a.toInt ∧ (running (-1) 0 0 []).regs.a.toInt < 0 ∧ 0 ≤ (running 32767 0 0 []).regs.a.toInt := by decide
theorem witness_RotateRightDigits : (running (-32768) 0 0 []).regs.a.toInt < 0 := by decide
theorem witness_DecimalInputStoresValue : ({ running 0 0 0 [] with decIn := [0x80000000#32] } : State).decIn = 0x80000000#32 :: [] := rfl
theorem witness_CharacterInputStoresCode : ({ running 0 0 0 [] with charIn := [0xFF#8] } : State).charIn = 0xFF#8 :: [] := rfl
theorem witness_SumsUseLowHalfOfCell : ∃ t, exec (.addA 0#16) (running (-1) 0 0 [(0, 0x12348000#32)]) = .next t := ⟨_, rfl⟩
theorem witness_AndWithDeliveredMask : ({ running (-1) 0 0 [] with maskIn := [0xFF#8, 0#8] } : State).maskIn = 0xFF#8 :: [0#8] := rfl
theorem witness_OrComputesAnd : ({ running 0 1 0 [] with maskIn := [0x80#8] } : State).maskIn = 0x80#8 :: [] := rfl

end Sys2Proof.Tests
end

section
/-! PROOFS. The statements about the digit-string primitives (spec/00_scope.md section 6, rules R17 to R19), with the lemmas
that say once what `hex2bin`, `nibble` and `bin` answer. -/

namespace Sys2Proof.Machine

/-! ## `hex2bin` (R17) -/

@[simp] theorem length_nibble (n : Nat) : (nibble n).length = 4 := rfl

/-- The 4 digits of a number below 16 read back as that number. -/
theorem val_nibble : ∀ n < 16, val (nibble n) = n := by decide

@[simp] theorem hex2bin_nil : hex2bin [] = some [] := rfl

/-- `hex2bin` peels the first character. -/
theorem hex2bin_cons (c : Char) (h : List Char) :
    hex2bin (c :: h) = (hexValue c).bind fun n => (hex2bin h).map (nibble n ++ ·) := by
  rw [hex2bin]
  cases hexValue c <;> cases hex2bin h <;> rfl

/-- A one-character string expands to its character's digits. -/
theorem hex2bin_singleton {c : Char} {n : Nat} (hc : hexValue c = some n) : hex2bin [c] = some (nibble n) := by
  simp [hex2bin_cons, hc]

/-- A string has a result exactly when all its characters are hexadecimal (R17, R64). -/
theorem hex2bin_isSome (h : List Char) : (hex2bin h).isSome = h.all isHexDigit := by
  induction h with
  | nil => rfl
  | cons c h ih =>
    rw [hex2bin_cons, List.all_cons, ← hexValue_isSome, ← ih]
    cases hexValue c <;> simp

/-- Each character of the input gives 4 digits of the result. -/
theorem length_of_hex2bin {h : List Char} {d : Digits} (hd : hex2bin h = some d) : d.length = 4 * h.length := by
  induction h generalizing d with
  | nil => simp_all
  | cons c h ih =>
    rw [hex2bin_cons] at hd
    obtain ⟨n, -, hn⟩ := Option.bind_eq_some_iff.1 hd
    obtain ⟨e, he, rfl⟩ := Option.map_eq_some_iff.1 hn
    rw [List.length_append, length_nibble, ih he, List.length_cons]
    ring

/-- `hex2bin` of a concatenation is the concatenation of the two results, and has none where either has none. -/
theorem hex2bin_append (h k : List Char) :
    hex2bin (h ++ k) = (hex2bin h).bind fun d => (hex2bin k).map (d ++ ·) := by
  induction h with
  | nil => simp
  | cons c h ih =>
    rw [List.cons_append, hex2bin_cons, hex2bin_cons, ih]
    cases hexValue c <;> cases hex2bin h <;> cases hex2bin k <;> simp

/-! ## `bin` (R19) -/

@[simp] theorem bin_zero : bin 0 = [] := rfl

/-- Appending a digit to the digits of `u` gives the digits of `2u` plus that digit, unless this is 0. -/
theorem bin_two_mul_add {u : Nat} {d : Bool} (h : 0 < 2 * u + d.toNat) : bin (2 * u + d.toNat) = bin u ++ [d] := by
  have hdiv : (2 * u + d.toNat) / 2 = u := by have := d.toNat_lt; omega
  have hmod : ((2 * u + d.toNat) % 2 == 1) = d := by cases d <;> simp
  rw [bin_pos h, hdiv, hmod]

/-- The digits of a number read back as that number. -/
theorem val_bin (u : Nat) : val (bin u) = u := by
  induction u using Nat.strongRecOn with
  | ind u ih =>
    obtain rfl | hu := Nat.eq_zero_or_pos u
    · rfl
    · have hlast : (u % 2 == 1).toNat = u % 2 := by rcases Nat.mod_two_eq_zero_or_one u with h | h <;> simp [h]
      rw [bin_pos hu, val_concat, ih (u / 2) (by omega), hlast, Nat.div_add_mod]

/-- The digits of a positive number begin with 1. -/
theorem head?_bin {u : Nat} (hu : 0 < u) : (bin u).head? = some true := by
  induction u using Nat.strongRecOn with
  | ind u ih =>
    rw [bin_pos hu]
    obtain rfl | h2 : u = 1 ∨ 0 < u / 2 := by omega
    · rfl
    · rw [List.head?_append, ih (u / 2) (by omega) h2, Option.some_or]

/-- A digit string that begins with 1 has a positive value. -/
theorem val_pos {s : Digits} (hs : s.head? = some true) : 0 < val s := by
  obtain ⟨t, rfl⟩ := List.head?_eq_some_iff.1 hs
  rw [val_cons, Bool.toNat_true, one_mul]
  positivity

/-- A digit string that begins with 1 is the `bin` of its value: no other string is minimal. -/
theorem bin_val {s : Digits} (hs : s.head? = some true) : bin (val s) = s := by
  induction s using List.reverseRecOn with
  | nil => cases hs
  | append_singleton s d ih =>
    have hpos := val_pos hs
    rw [val_concat] at hpos ⊢
    rw [bin_two_mul_add hpos]
    cases s with
    | nil => rfl
    | cons e s => rw [ih hs]

end Sys2Proof.Machine

namespace Sys2Proof

open Machine

/-- Settles O6: the expansion's length and domain by induction on the string, the 16 digit characters by their values. -/
theorem hexDigitStrings : Obligations.HexDigitStrings := by
  refine ⟨fun h hall => ?_, fun h ⟨c, hc, hbad⟩ => ?_, fun h k d e hd he => ?_, fun n hn => ?_⟩
  · obtain ⟨d, hd⟩ := Option.isSome_iff_exists.1 ((hex2bin_isSome h).trans (List.all_eq_true.2 hall))
    exact ⟨d, hd, length_of_hex2bin hd⟩
  · rw [← Option.not_isSome_iff_eq_none, hex2bin_isSome, Bool.not_eq_true]
    exact List.all_eq_false.2 ⟨c, hc, by simp [hbad]⟩
  · simp [hex2bin_append, hd, he]
  · obtain ⟨hup, hlow⟩ := hexValue_hexChar n hn
    exact ⟨nibble n, hex2bin_singleton hup, hex2bin_singleton hlow, length_nibble n, val_nibble n hn⟩

/-- Settles O9: `val` inverts `bin`, and a first digit 1 leaves one string for each value. -/
theorem minimalDigitString : Obligations.MinimalDigitString :=
  ⟨bin_zero, val_bin, fun _ => head?_bin, fun _ => bin_val⟩

end Sys2Proof
end

section
/-! PROOFS. The engine state `mode` (spec/10_state.md rule R34), with the lemmas that say once what the effects and the step do
to the control state: `PC`, `SP`, `IR`, `mode` and the instruction port. -/

namespace Sys2Proof.Machine

/-! ## What no effect writes: `PC`, `SP`, `IR`, `mode` and the instruction port (R27 to R29, R34, R84) -/

/-- The control state of `t` is that of `s`: only the common part of a step writes it. -/
def KeepsControl (s t : State) : Prop :=
  t.regs.pc = s.regs.pc ∧ t.regs.sp = s.regs.sp ∧ t.regs.ir = s.regs.ir ∧ t.mode = s.mode ∧ t.instrIn = s.instrIn

theorem KeepsControl.mode_eq {s t : State} (h : KeepsControl s t) : t.mode = s.mode := by
  obtain ⟨_, _, _, hmode, _⟩ := h
  exact hmode

theorem writeA_keepsControl (v : Int) (s : State) : KeepsControl s (s.writeA v) := ⟨rfl, rfl, rfl, rfl, rfl⟩

theorem writeX_keepsControl (v : Int) (s : State) : KeepsControl s (s.writeX v) := ⟨rfl, rfl, rfl, rfl, rfl⟩

theorem memWrite_keepsControl (a : Nat) (v : Cell) (s : State) : KeepsControl s (s.memWrite a v) := ⟨rfl, rfl, rfl, rfl, rfl⟩

/-- An input instruction keeps the control state when its effect does: to wait and to take the input both keep it. -/
theorem withDec_keepsControl {f : Cell → State → State} (hf : ∀ v u, KeepsControl u (f v u)) (i : Instr) (s : State) :
    ∃ t, s.withDec i f = .next t ∧ KeepsControl s t := by
  cases h : s.decIn with
  | nil => exact ⟨_, withDec_nil h i f, rfl, rfl, rfl, rfl, rfl⟩
  | cons v rest => exact ⟨_, withDec_cons h i f, hf v { s with decIn := rest }⟩

theorem withChar_keepsControl {f : Byte → State → State} (hf : ∀ c u, KeepsControl u (f c u)) (i : Instr) (s : State) :
    ∃ t, s.withChar i f = .next t ∧ KeepsControl s t := by
  cases h : s.charIn with
  | nil => exact ⟨_, withChar_nil h i f, rfl, rfl, rfl, rfl, rfl⟩
  | cons c rest => exact ⟨_, withChar_cons h i f, hf c { s with charIn := rest }⟩

theorem withMask_keepsControl {f : Byte → State → State} (hf : ∀ m u, KeepsControl u (f m u)) (i : Instr) (s : State) :
    ∃ t, s.withMask i f = .next t ∧ KeepsControl s t := by
  cases h : s.maskIn with
  | nil => exact ⟨_, withMask_nil h i f, rfl, rfl, rfl, rfl, rfl⟩
  | cons m rest => exact ⟨_, withMask_cons h i f, hf m { s with maskIn := rest }⟩

/-- Every instruction answers a next state and keeps the control state. The six input instructions may wait; every other one
reports at once, after writes to `A`, `X`, memory or an output only. -/
theorem exec_keepsControl (i : Instr) (s : State) : ∃ t, exec i s = .next t ∧ KeepsControl s t := by
  cases i with
  | deci addr => exact withDec_keepsControl (memWrite_keepsControl (effAddr addr)) (.deci addr) s
  | chari addr => exact withChar_keepsControl (fun c u => memWrite_keepsControl (effAddr addr) (zextByte32 c) u) (.chari addr) s
  | andA addr => exact withMask_keepsControl (f := andA) (fun _ u => writeA_keepsControl _ u) (.andA addr) s
  | andX addr => exact withMask_keepsControl (f := andX) (fun _ u => writeX_keepsControl _ u) (.andX addr) s
  | orA addr => exact withMask_keepsControl (f := orA Config.orIsAnd) (fun _ u => writeA_keepsControl _ u) (.orA addr) s
  | orX addr => exact withMask_keepsControl (f := orX Config.orIsAnd) (fun _ u => writeX_keepsControl _ u) (.orX addr) s
  | _ addr => exact ⟨_, rfl, rfl, rfl, rfl, rfl, rfl⟩

/-- Dispatch answers a next state and keeps the control state, whether or not the word decodes (R82, R88). -/
theorem dispatch_keepsControl (w : InstrWord) (s : State) : ∃ t, dispatch w s = .next t ∧ KeepsControl s t := by
  cases h : decode w with
  | instr i => rw [dispatch_instr h]; exact exec_keepsControl i s
  | invalidOpcode op => exact ⟨_, dispatch_invalid h s, rfl, rfl, rfl, rfl, rfl⟩

/-! ## `mode` along a step (R34, R79) -/

/-- The common part of a step leaves the core `Running`, whatever it was. -/
@[simp] theorem beginStep_mode (s : State) (rest : List InstrWord) : (s.beginStep rest).mode = .running := by
  cases h : s.mode with
  | uninitialized => rw [beginStep_uninitialized h]
  | running => rw [beginStep_running h]; exact h

/-- A word dispatched after the common part answers a `Running` state. -/
theorem dispatch_beginStep_mode (w : InstrWord) (s : State) (rest : List InstrWord) :
    ∃ t, dispatch w (s.beginStep rest) = .next t ∧ t.mode = .running := by
  obtain ⟨t, ht, hkeep⟩ := dispatch_keepsControl w (s.beginStep rest)
  exact ⟨t, ht, hkeep.mode_eq.trans (beginStep_mode s rest)⟩

/-- Every step from a `Running` state, one that waits or finds no word included, answers a `Running` state. -/
theorem step_running_mode {s : State} (h : s.mode = .running) : ∃ t, step s = .next t ∧ t.mode = .running := by
  obtain ⟨i, -, hstep⟩ | ⟨-, -, hstep⟩ | ⟨w, rest, -, -, hstep⟩ := step_cases s
  · obtain ⟨t, ht, hkeep⟩ := exec_keepsControl i s
    exact ⟨t, hstep.trans ht, hkeep.mode_eq.trans h⟩
  · exact ⟨s, hstep, h⟩
  · rw [hstep]; exact dispatch_beginStep_mode w s rest

end Sys2Proof.Machine

namespace Sys2Proof

open Machine

/-- Settles O23: the common part sets `Running`, and neither an effect nor a delivery writes `mode`. -/
theorem modeChangesOnce : Obligations.ModeChangesOnce := by
  refine ⟨rfl, fun s w rest hwait hin => ?_, fun s t hrun hstep => ?_, State.deliver_mode⟩
  · rw [step_word hwait hin]
    exact dispatch_beginStep_mode w s rest
  · obtain ⟨t', ht', hmode⟩ := step_running_mode hrun
    cases ht'.symm.trans hstep
    exact hmode

end Sys2Proof
end

section
/-! PROOFS. What is written to memory (spec/20_memory.md rule R47): the memory after an effect is the one before it, or that memory
with the store target's cell replaced. -/

namespace Sys2Proof.Machine

open Sys2Proof.Safety

/-- `storeTarget` names a cell for STR A, STR X, STBYTE, DECI and CHARI alone, and it is the one at their effective address. -/
theorem storeTarget_eq_some_iff (i : Instr) (a : Nat) : storeTarget i = some a ↔ ∃ addr : Word, a = effAddr addr ∧
    (i = .strA addr ∨ i = .strX addr ∨ i = .stbyte addr ∨ i = .deci addr ∨ i = .chari addr) := by
  constructor
  · intro h
    cases i with
    | strA addr | strX addr | stbyte addr | deci addr | chari addr => exact ⟨addr, (Option.some.inj h).symm, by simp⟩
    | _ => cases h
  · rintro ⟨addr, rfl, rfl | rfl | rfl | rfl | rfl⟩ <;> rfl

/-! ## One write at most, to the target -/

/-- The memory of `t` is that of `s`, or that of `s` after one write to the target cell, where there is a target. -/
def WritesAtMost (target : Option Nat) (s t : State) : Prop :=
  t.mem = s.mem ∨ ∃ (ea : Nat) (v : Cell), target = some ea ∧ t.mem = s.mem.write ea v

/-- Every cell but the target reads as before. -/
theorem WritesAtMost.read_eq {target : Option Nat} {s t : State} (h : WritesAtMost target s t) {a : Nat} (ha : target ≠ some a) :
    t.mem.read a = s.mem.read a := by
  obtain hmem | ⟨ea, v, rfl, hmem⟩ := h
  · rw [hmem]
  · have hne : a ≠ ea := fun h => ha (congrArg some h.symm)
    rw [hmem, Memory.read_write_other _ _ _ _ hne]

theorem writesAtMost_memWrite (ea : Nat) (v : Cell) (s : State) : WritesAtMost (some ea) s (s.memWrite ea v) :=
  .inr ⟨ea, v, rfl, rfl⟩

/-- An input instruction writes what its effect writes at most: to wait and to take the input both leave memory alone. -/
theorem withDec_writesAtMost {target : Option Nat} {f : Cell → State → State} (hf : ∀ v u, WritesAtMost target u (f v u))
    (i : Instr) (s : State) : ∃ t, s.withDec i f = .next t ∧ WritesAtMost target s t := by
  cases h : s.decIn with
  | nil => exact ⟨_, withDec_nil h i f, .inl rfl⟩
  | cons v rest => exact ⟨_, withDec_cons h i f, hf v { s with decIn := rest }⟩

theorem withChar_writesAtMost {target : Option Nat} {f : Byte → State → State} (hf : ∀ c u, WritesAtMost target u (f c u))
    (i : Instr) (s : State) : ∃ t, s.withChar i f = .next t ∧ WritesAtMost target s t := by
  cases h : s.charIn with
  | nil => exact ⟨_, withChar_nil h i f, .inl rfl⟩
  | cons c rest => exact ⟨_, withChar_cons h i f, hf c { s with charIn := rest }⟩

theorem withMask_writesAtMost {target : Option Nat} {f : Byte → State → State} (hf : ∀ m u, WritesAtMost target u (f m u))
    (i : Instr) (s : State) : ∃ t, s.withMask i f = .next t ∧ WritesAtMost target s t := by
  cases h : s.maskIn with
  | nil => exact ⟨_, withMask_nil h i f, .inl rfl⟩
  | cons m rest => exact ⟨_, withMask_cons h i f, hf m { s with maskIn := rest }⟩

/-- Every instruction answers a next state and writes one cell at most, its store target. The three stores from a register write
it at once, DECI and CHARI when their input is there, AND and OR write a register once theirs is; the others write registers or
an output only. -/
theorem exec_writesAtMost (i : Instr) (s : State) : ∃ t, exec i s = .next t ∧ WritesAtMost (storeTarget i) s t := by
  cases i with
  | strA addr | strX addr | stbyte addr => exact ⟨_, rfl, writesAtMost_memWrite (effAddr addr) _ s⟩
  | deci addr => exact withDec_writesAtMost (writesAtMost_memWrite (effAddr addr)) (.deci addr) s
  | chari addr => exact withChar_writesAtMost (fun c u => writesAtMost_memWrite (effAddr addr) (zextByte32 c) u) (.chari addr) s
  | andA addr => exact withMask_writesAtMost (f := andA) (fun _ _ => .inl rfl) (.andA addr) s
  | andX addr => exact withMask_writesAtMost (f := andX) (fun _ _ => .inl rfl) (.andX addr) s
  | orA addr => exact withMask_writesAtMost (f := orA Config.orIsAnd) (fun _ _ => .inl rfl) (.orA addr) s
  | orX addr => exact withMask_writesAtMost (f := orX Config.orIsAnd) (fun _ _ => .inl rfl) (.orX addr) s
  | _ addr => exact ⟨_, rfl, .inl rfl⟩

/-- The common part of a step, the first one's zero-fill included, leaves memory alone. -/
@[simp] theorem beginStep_mem (s : State) (rest : List InstrWord) : (s.beginStep rest).mem = s.mem := by
  cases h : s.mode with
  | uninitialized => rw [beginStep_uninitialized h]
  | running => rw [beginStep_running h]

end Sys2Proof.Machine

namespace Sys2Proof

open Machine

/-- Settles O29: an effect writes its store target at most, and neither the common part nor an invalid opcode writes memory. -/
theorem onlyFiveInstructionsWriteMemory : Obligations.OnlyFiveInstructionsWriteMemory := by
  refine ⟨storeTarget_eq_some_iff, fun i s => ?_, fun s rest => ⟨fun a => ?_, fun a => ?_⟩⟩
  · obtain ⟨t, ht, hwrites⟩ := exec_writesAtMost i s
    exact ⟨t, ht, fun _ => hwrites.read_eq⟩
  · rw [beginStep_mem]
  · rw [State.invalidOpcode, State.report_mem]

end Sys2Proof
end

section
/-! PROOFS. Dispatch by exact match (spec/30_encoding.md rules R71, R75), with the lemmas that say once what `decode` answers and
which opcodes the rows of the map hold. -/

namespace Sys2Proof

/-! ## What `decode` answers (R71, R75) -/

/-- A word is the instruction of a row with the word's opcode, made from the word's address field; where no row has that opcode,
the word is rejected under it. -/
theorem decode_cases (w : InstrWord) :
    (∃ row ∈ opcodeMap, row.1 = opcodeOf w ∧ decode w = .instr (row.2 (addressOf w))) ∨
    (opcodeOf w ∉ opcodeMap.map Prod.fst ∧ decode w = .invalidOpcode (opcodeOf w)) := by
  rw [decode, decodeWith]
  cases hfind : opcodeMap.find? (fun row => row.1 == opcodeOf w) with
  | some row =>
    have hop : row.1 = opcodeOf w := by simpa using List.find?_some hfind
    exact .inl ⟨row, List.mem_of_find?_eq_some hfind, hop, rfl⟩
  | none =>
    refine .inr ⟨fun hmem => ?_, rfl⟩
    obtain ⟨row, hrow, hop⟩ := List.mem_map.1 hmem
    exact List.find?_eq_none.1 hfind row hrow (beq_iff_eq.2 hop)

/-- A word whose opcode is in no row is rejected under its opcode. -/
theorem decode_of_not_mem {w : InstrWord} (h : opcodeOf w ∉ opcodeMap.map Prod.fst) :
    decode w = .invalidOpcode (opcodeOf w) := by
  obtain ⟨row, hrow, hop, -⟩ | ⟨-, hdec⟩ := decode_cases w
  · exact absurd (List.mem_map.2 ⟨row, hrow, hop⟩) h
  · exact hdec

/-! ## The rows of the map (R72) -/

/-- The instruction of a row has the row's opcode and the address field it is given. -/
theorem opcodeMap_row_fields : ∀ row ∈ opcodeMap, ∀ addr : Word, (row.2 addr).opcode = row.1 ∧ (row.2 addr).addr = addr := by
  simp [opcodeMap, opcodeMapUnary, opcodeMapIo, opcodeMapMemory, Instr.opcode, Instr.addr]

/-- From the first group M opcode on, no row has a set bit among its low three. -/
theorem setWidth_three_of_mem_opcodeMap : ∀ op ∈ opcodeMap.map Prod.fst, 0x70#8 ≤ op → op.setWidth 3 = 0#3 := by decide

/-- A group M opcode is 0x70 or above, and its low three bits are `000` (R71, R72). -/
theorem Instr.opcode_of_memory {i : Instr} (h : i.group = .memory) : 0x70#8 ≤ i.opcode ∧ i.opcode.setWidth 3 = 0#3 := by
  cases i with
  | addA | addX | subA | subX | andA | andX | orA | orX | ldrA | ldrX | strA | strX => simp [Instr.opcode]
  | _ => cases h

/-- A group M opcode with a bit set among its low three is in no row: setting them leaves it 0x70 or above, where every row's are
`000` (R71). -/
theorem Instr.opcode_or_low_not_mem {i : Instr} {low : BitVec 3} (h : i.group = .memory) (hlow : low ≠ 0) :
    i.opcode ||| low.zeroExtend 8 ∉ opcodeMap.map Prod.fst := by
  intro hmem
  obtain ⟨hge, hzero⟩ := Instr.opcode_of_memory h
  have hge' : 0x70#8 ≤ i.opcode ||| low.zeroExtend 8 := by
    rw [BitVec.le_def, BitVec.toNat_or]
    exact le_trans hge Nat.left_le_or
  have hbits : (i.opcode ||| low.zeroExtend 8).setWidth 3 = low := by simp [BitVec.setWidth_or, hzero]
  exact hlow (hbits.symm.trans (setWidth_three_of_mem_opcodeMap _ hmem hge'))

/-- Settles O4: each part by the two cases of `decode`, the rows' own fields, and the low bits of group M. -/
theorem exactOpcodeMatch : Obligations.ExactOpcodeMatch := by
  refine ⟨fun w i hdec => ?_, fun w => ⟨fun ⟨i, hdec⟩ => ?_, fun hmem => ?_⟩, fun w hno => ?_, fun i low addr hgroup hlow => ?_⟩
  · obtain ⟨row, hrow, hop, hrowdec⟩ | ⟨-, hinv⟩ := decode_cases w
    · obtain rfl : row.2 (addressOf w) = i := Decoded.instr.inj (hrowdec.symm.trans hdec)
      obtain ⟨hopcode, haddr⟩ := opcodeMap_row_fields row hrow (addressOf w)
      exact ⟨(hopcode.trans hop).symm, haddr.symm⟩
    · cases hinv.symm.trans hdec
  · by_contra hmem
    cases (decode_of_not_mem hmem).symm.trans hdec
  · obtain ⟨row, -, -, hdec⟩ | ⟨hnot, -⟩ := decode_cases w
    · exact ⟨_, hdec⟩
    · exact absurd hmem hnot
  · obtain ⟨row, -, -, hdec⟩ | ⟨-, hinv⟩ := decode_cases w
    · exact absurd hdec (hno _)
    · exact hinv
  · have hnot := Instr.opcode_or_low_not_mem hgroup hlow
    rw [← opcodeOf_joinWord (i.opcode ||| low.zeroExtend 8) addr] at hnot
    simpa using decode_of_not_mem hnot

end Sys2Proof
end

section
/-! PROOFS. The first step after reset (spec/40_engine.md rule R79, spec/70_reset_and_hazards.md rule R155), with what the common part
of a step leaves on the instruction port and, in the first step, in the registers. -/

namespace Sys2Proof.Machine

/-- The common part of a step, the first one or a later one, leaves on the instruction port what follows the step's word (R78). -/
@[simp] theorem beginStep_instrIn (s : State) (rest : List InstrWord) : (s.beginStep rest).instrIn = rest := by
  cases h : s.mode with
  | uninitialized => rw [beginStep_uninitialized h]
  | running => rw [beginStep_running h]

/-- The first step's common part leaves every register 0 but `PC`, which has been counted once (R155). -/
theorem beginStep_regs_of_uninitialized {s : State} (h : s.mode = .uninitialized) (rest : List InstrWord) :
    (s.beginStep rest).regs = { a := 0, x := 0, pc := 1, sp := 0, ir := 0 } := by
  rw [beginStep_uninitialized h]; rfl

end Sys2Proof.Machine

namespace Sys2Proof

open Machine Safety

/-- Settles O16: the dispatched state is the one the common part of the first step leaves, field by field. -/
theorem firstStepZeroFills : Obligations.FirstStepZeroFills := by
  intro s w rest hmode hwait hin
  have hmem : SameMemory s (s.beginStep rest) := fun a => by rw [beginStep_mem]
  exact ⟨s.beginStep rest, step_word hwait hin, beginStep_regs_of_uninitialized hmode rest, beginStep_mode s rest, hmem,
    beginStep_instrIn s rest⟩

end Sys2Proof
end

section
/-! PROOFS. SHR A, ROL and ROR (spec/41_unary.md rules R98 and R100 to R103), with the lemmas that say once what a word made
from an instruction's opcode decodes to, what a write to `A` or `X` leaves unchanged, and what rotating the minimal digit string
computes. -/

namespace Sys2Proof

/-- A word made from an instruction's opcode and an address field is that instruction with that field: in each of the 29 rows the
search finds the row itself (R71, R73). -/
theorem decode_joinWord_opcode (i : Instr) (addr : Word) : decode (joinWord i.opcode addr) = .instr (i.withAddr addr) := by
  rw [decode, decodeWith, opcodeOf_joinWord, addressOf_joinWord]
  cases i <;> rfl

end Sys2Proof

namespace Sys2Proof.Machine

open Sys2Proof.Safety

/-! ## A write to `A` or `X`, and completion -/

theorem writeA_report_registersOnly (v : Int) (s : State) : RegistersOnly s ((s.writeA v).report .ok) :=
  ⟨⟨rfl, rfl⟩, rfl, fun _ => rfl, ⟨rfl, rfl, rfl, rfl⟩, rfl, rfl, rfl⟩

theorem writeX_report_registersOnly (v : Int) (s : State) : RegistersOnly s ((s.writeX v).report .ok) :=
  ⟨⟨rfl, rfl⟩, rfl, fun _ => rfl, ⟨rfl, rfl, rfl, rfl⟩, rfl, rfl, rfl⟩

/-! ## SHR A (R98) -/

/-- Half of a register's signed value fits the register, so its narrowing changes nothing. -/
theorem s16_shiftRight1_toInt (a : Word) : (s16 (shiftRight1 a.toInt)).toInt = Int.fdiv a.toInt 2 := by
  have hlow : -32768 ≤ a.toInt := a.le_toInt
  have hhigh : a.toInt < 32768 := a.toInt_lt
  have hhalf : shiftRight1 a.toInt = a.toInt / 2 := Int.shiftRight_eq_div_pow _ 1
  rw [s16_toInt, hhalf, Int.fdiv_eq_ediv_of_nonneg _ (by decide)]
  exact Int.bmod_eq_of_le_mul_two (by omega) (by omega)

/-! ## The number of digits of `bin` (R20) -/

/-- `bin` has as many digits as the library's `Nat.size` counts. -/
theorem length_bin (u : Nat) : (bin u).length = u.size := by
  induction u using Nat.binaryRec' with
  | zero => rfl
  | bit d u hd ih =>
    have hne : Nat.bit d u ≠ 0 := Nat.bit_ne_zero_iff.2 hd
    have hpos : 0 < 2 * u + d.toNat := by rw [← Nat.bit_val]; omega
    rw [Nat.size_bit hne, Nat.bit_val, bin_two_mul_add hpos, List.length_append, ih, List.length_singleton]

/-- A number between two successive powers of 2 has the upper one's number of digits. -/
theorem size_eq_of_pow_le {u n : Nat} (hlow : 2 ^ n ≤ u) (hhigh : u < 2 ^ (n + 1)) : u.size = n + 1 :=
  le_antisymm (Nat.size_le.2 hhigh) (Nat.lt_size.2 hlow)

/-! ## Rotating a digit string (R21) -/

@[simp] theorem length_rotateLeft (s : Digits) : (rotateLeft s).length = s.length := by
  cases s <;> simp [rotateLeft]

@[simp] theorem rotateRight_concat (s : Digits) (d : Bool) : rotateRight (s ++ [d]) = d :: s := by simp [rotateRight]

@[simp] theorem length_rotateRight (s : Digits) : (rotateRight s).length = s.length := by
  cases s using List.reverseRecOn with
  | nil => rfl
  | append_singleton s d => simp

/-- As many digits as a number below `2^n` has give a number below `2^n` again. -/
theorem val_lt_of_length_eq {d : Digits} {u n : Nat} (hlen : d.length = (bin u).length) (h : u < 2 ^ n) : val d < 2 ^ n := by
  have hle : d.length ≤ n := by rw [hlen, length_bin]; exact Nat.size_le.2 h
  exact (val_lt d).trans_le (Nat.pow_le_pow_right two_pos hle)

theorem rold_lt {u n : Nat} (h : u < 2 ^ n) : rold u < 2 ^ n := val_lt_of_length_eq (length_rotateLeft _) h

theorem rord_lt {u n : Nat} (h : u < 2 ^ n) : rord u < 2 ^ n := val_lt_of_length_eq (length_rotateRight _) h

/-- ROL's arithmetic on a number of `n + 1` digits: the first digit, a 1 of weight `2^n`, comes back with weight 1. -/
theorem rold_eq {u n : Nat} (hsize : u.size = n + 1) : rold u = 2 * (u - 2 ^ n) + 1 := by
  have hu : 0 < u := Nat.size_pos.1 (by omega)
  obtain ⟨t, ht⟩ := List.head?_eq_some_iff.1 (head?_bin hu)
  have hlen : t.length = n := by simpa [ht, hsize] using length_bin u
  have hval : 2 ^ n + val t = u := by simpa [ht, val_cons, hlen] using val_bin u
  rw [rold, ht, rotateLeft, val_concat, Bool.toNat_true, ← hval, Nat.add_sub_cancel_left]

/-- ROR's arithmetic on a number of `n + 1` digits: the last digit comes back with weight `2^n`. -/
theorem rord_eq {u n : Nat} (hsize : u.size = n + 1) : rord u = 2 ^ n * (u % 2) + u / 2 := by
  have hu : 0 < u := Nat.size_pos.1 (by omega)
  have hlen : (bin (u / 2)).length = n := by simpa [bin_pos hu, hsize] using length_bin u
  have hlast : (u % 2 == 1).toNat = u % 2 := by rcases Nat.mod_two_eq_zero_or_one u with h | h <;> simp [h]
  rw [rord, bin_pos hu, rotateRight_concat, val_cons, hlen, hlast, val_bin, mul_comm]

/-! ## Rotating a register (R100 to R103) -/

/-- The pattern of a negative `A` has all 16 digits (R91). -/
theorem size_of_toInt_neg {a : Word} (h : a.toInt < 0) : a.toNat.size = 16 := by
  have hlow : 2 ^ 16 ≤ 2 * a.toNat := BitVec.toInt_neg_iff.1 h
  exact size_eq_of_pow_le (by omega) a.isLt

theorem s16_rold_toNat (a : Word) : (s16 (rold a.toNat)).toNat = rold a.toNat := s16_natCast_toNat (rold_lt a.isLt)

theorem s16_rord_toNat (a : Word) : (s16 (rord a.toNat)).toNat = rord a.toNat := s16_natCast_toNat (rord_lt a.isLt)

/-- A nonnegative `A` has 15 digits at most, and so has the rotated string: bit 15 stays 0. -/
theorem s16_rold_nonneg {a : Word} (h : 0 ≤ a.toInt) : 0 ≤ (s16 (rold a.toNat)).toInt := by
  have ha : 2 * a.toNat < 2 ^ 16 := BitVec.toInt_pos_iff.1 h
  have hlt : rold a.toNat < 2 ^ 15 := rold_lt (by omega)
  rw [BitVec.toInt_pos_iff, s16_rold_toNat]
  omega

/-- On a negative `A` ROL is the 16-bit rotation: the 1 that leaves bit 15 comes in at bit 0. -/
theorem s16_rold_eq_rotateLeft {a : Word} (h : a.toInt < 0) : s16 (rold a.toNat) = a.rotateLeft 1 := by
  have hlow : 2 ^ 16 ≤ 2 * a.toNat := BitVec.toInt_neg_iff.1 h
  have hhigh : a.toNat < 2 ^ 16 := a.isLt
  have hshift : a.toNat <<< 1 % 2 ^ 16 = 2 ^ 1 * (a.toNat - 2 ^ 15) := by rw [Nat.shiftLeft_eq]; omega
  have htop : a.toNat >>> 15 = 1 := by rw [Nat.shiftRight_eq_div_pow]; omega
  apply BitVec.eq_of_toNat_eq
  calc (s16 (rold a.toNat)).toNat
      = 2 ^ 1 * (a.toNat - 2 ^ 15) + 1 := by rw [s16_rold_toNat, rold_eq (size_of_toInt_neg h), pow_one]
    _ = a.toNat <<< 1 % 2 ^ 16 ||| a.toNat >>> 15 := by rw [hshift, htop, Nat.two_pow_add_eq_or_of_lt (by decide)]
    _ = (a.rotateLeft 1).toNat := by rw [BitVec.toNat_rotateLeft]

/-- On a negative `A` ROR is the 16-bit rotation: bit 0 comes in at bit 15. -/
theorem s16_rord_eq_rotateRight {a : Word} (h : a.toInt < 0) : s16 (rord a.toNat) = a.rotateRight 1 := by
  have hhalf : a.toNat / 2 < 2 ^ 15 := by have := a.isLt; omega
  have hbottom : a.toNat <<< 15 % 2 ^ 16 = 2 ^ 15 * (a.toNat % 2) := by rw [Nat.shiftLeft_eq]; omega
  apply BitVec.eq_of_toNat_eq
  calc (s16 (rord a.toNat)).toNat
      = 2 ^ 15 * (a.toNat % 2) + a.toNat / 2 := by rw [s16_rord_toNat, rord_eq (size_of_toInt_neg h)]
    _ = a.toNat >>> 1 ||| a.toNat <<< 15 % 2 ^ 16 := by
      rw [hbottom, Nat.two_pow_add_eq_or_of_lt hhalf, Nat.or_comm, Nat.shiftRight_one]
    _ = (a.rotateRight 1).toNat := by rw [BitVec.toNat_rotateRight]

end Sys2Proof.Machine

namespace Sys2Proof

open Machine

/-- Settles O41: the rotated digits fit the register they are narrowed to, and the two signs of `A` are 15 digits at most and 16. -/
theorem rotateLeftDigits : Obligations.RotateLeftDigits := fun addr s =>
  ⟨decode_joinWord_opcode (.rolA addr) addr, decode_joinWord_opcode (.rolX addr) addr,
    ⟨_, rfl, rfl, s16_rold_toNat s.regs.a, s16_rold_nonneg, s16_rold_eq_rotateLeft, writeA_report_registersOnly _ s⟩,
    ⟨_, rfl, rfl, u16_natCast_toNat (rold_lt s.regs.x.isLt), writeX_report_registersOnly _ s⟩⟩

/-- Settles O42: the rotated digits fit the register they are narrowed to, and a negative `A` has all 16. -/
theorem rotateRightDigits : Obligations.RotateRightDigits := fun addr s =>
  ⟨decode_joinWord_opcode (.rorA addr) addr, decode_joinWord_opcode (.rorX addr) addr,
    ⟨_, rfl, rfl, s16_rord_toNat s.regs.a, s16_rord_eq_rotateRight, writeA_report_registersOnly _ s⟩,
    ⟨_, rfl, rfl, u16_natCast_toNat (rord_lt s.regs.x.isLt), writeX_report_registersOnly _ s⟩⟩

/-- Settles O39: the shifted value is the floor of the half, and it fits `A`. -/
theorem shiftRightAccumulator : Obligations.ShiftRightAccumulator := fun addr s =>
  ⟨decode_joinWord_opcode (.shrA addr) addr,
    _, rfl, rfl, s16_shiftRight1_toInt s.regs.a, writeA_report_registersOnly _ s⟩

end Sys2Proof
end

section
/-! PROOFS. ADD and SUB (spec/43_arith_logic.md rules R111 and R114 to R117), with the lemmas that say once what an instruction that
writes `A` or `X` and completes answers, and which value each of the four writes. -/

namespace Sys2Proof.Machine

open Sys2Proof.Safety

/-! ## A write to `A` or `X` that completes the step (R30, R131) -/

/-- `A` takes the value modulo 2^16, read signed, and nothing else of the registers changes. -/
theorem writeA_complete_spec (v : Int) (s : State) : ∃ t : State, (s.writeA v).complete = .next t ∧
    t.regs = { s.regs with a := t.regs.a } ∧ t.regs.a.toInt = v.bmod 65536 ∧ RegistersOnly s t :=
  ⟨_, complete_eq _, rfl, s16_toInt v, writeA_report_registersOnly v s⟩

/-- `X` takes the value modulo 2^16, read unsigned, and nothing else of the registers changes. -/
theorem writeX_complete_spec (v : Int) (s : State) : ∃ t : State, (s.writeX v).complete = .next t ∧
    t.regs = { s.regs with x := t.regs.x } ∧ (t.regs.x.toNat : Int) = v % 65536 ∧ RegistersOnly s t :=
  ⟨_, complete_eq _, rfl, u16_toNat v, writeX_report_registersOnly v s⟩

/-! ## The exact value each instruction writes (R111) -/

theorem exec_addA (addr : Word) (s : State) :
    exec (.addA addr) s = (s.writeA (s.regs.a.toInt + (s.mem.read (effAddr addr)).toInt)).complete := rfl

theorem exec_addX (addr : Word) (s : State) :
    exec (.addX addr) s = (s.writeX (s.regs.x.toNat + (s.mem.read (effAddr addr)).toInt)).complete := rfl

theorem exec_subA (addr : Word) (s : State) :
    exec (.subA addr) s = (s.writeA (s.regs.a.toInt - (s.mem.read (effAddr addr)).toInt)).complete := rfl

theorem exec_subX (addr : Word) (s : State) :
    exec (.subX addr) s = (s.writeX (s.regs.x.toNat - (s.mem.read (effAddr addr)).toInt)).complete := rfl

end Sys2Proof.Machine

namespace Sys2Proof

open Machine

/-- Settles O49: each form writes the exact sum to its register, and the write narrows it. -/
theorem addCellToRegister : Obligations.AddCellToRegister := by
  intro addr s
  rw [exec_addA, exec_addX]
  exact ⟨decode_joinWord_opcode (.addA addr) addr, decode_joinWord_opcode (.addX addr) addr,
    writeA_complete_spec _ s, writeX_complete_spec _ s⟩

/-- Settles O50: each form writes the exact difference to its register, and the write narrows it. -/
theorem subtractCellFromRegister : Obligations.SubtractCellFromRegister := by
  intro addr s
  rw [exec_subA, exec_subX]
  exact ⟨decode_joinWord_opcode (.subA addr) addr, decode_joinWord_opcode (.subX addr) addr,
    writeA_complete_spec _ s, writeX_complete_spec _ s⟩

end Sys2Proof
end

section
/-! PROOFS. LDR (spec/44_load_store.md rules R124 and R125), with the lemmas that say once which value each form writes. -/

namespace Sys2Proof.Machine

/-! ## The exact value each form of LDR writes: the addressed cell's, read signed -/

theorem exec_ldrA (addr : Word) (s : State) :
    exec (.ldrA addr) s = (s.writeA (s.mem.read (effAddr addr)).toInt).complete := rfl

theorem exec_ldrX (addr : Word) (s : State) :
    exec (.ldrX addr) s = (s.writeX (s.mem.read (effAddr addr)).toInt).complete := rfl

end Sys2Proof.Machine

namespace Sys2Proof

open Machine

/-- Settles O54: each form writes the whole cell to its register, and the write narrows it. -/
theorem loadNarrowsCell : Obligations.LoadNarrowsCell := by
  intro addr s
  rw [exec_ldrA, exec_ldrX]
  exact ⟨decode_joinWord_opcode (.ldrA addr) addr, decode_joinWord_opcode (.ldrX addr) addr,
    writeA_complete_spec _ s, writeX_complete_spec _ s⟩

end Sys2Proof
end

section
/-! PROOFS. The encoding read both ways (spec/30_encoding.md rules R65, R68, R69, R71 to R75), with the lemma that says once that an
instruction is given by its row and its address field. -/

namespace Sys2Proof

@[simp] theorem Instr.withAddr_addr (i : Instr) : i.withAddr i.addr = i := by cases i <;> rfl

/-- An instruction's word decodes to it. -/
theorem decode_encode (i : Instr) : decode (encode i) = .instr i := by
  rw [encode, decode_joinWord_opcode, Instr.withAddr_addr]

/-- The instruction a row makes of an address field is encoded as the row's opcode and that field. -/
theorem encode_opcodeMap_row {row : Byte × (Word → Instr)} (hrow : row ∈ opcodeMap) (addr : Word) :
    encode (row.2 addr) = joinWord row.1 addr := by
  obtain ⟨hop, haddr⟩ := opcodeMap_row_fields row hrow addr
  rw [encode, hop, haddr]

/-! ## The register-select bit (R69) -/

/-- `SEL_A` is 0 (R69). -/
@[simp] theorem selectReg_false : selectReg false = .A := by decide

@[simp] theorem selectReg_true : selectReg true = .X := by decide

/-- Group U selects by the last character of the opcode. -/
theorem Instr.reg?_of_unary {i : Instr} (h : i.group = .unary) : i.reg? = some (selectReg (opcChar i.opcode 7)) := by
  cases i with
  | notA | notX | shlA | shlX | shrA | shrX | rolA | rolX | rorA | rorX => simp [Instr.reg?, Instr.opcode, opcChar]
  | _ => cases h

/-- Group M selects by the middle one. -/
theorem Instr.reg?_of_memory {i : Instr} (h : i.group = .memory) : i.reg? = some (selectReg (opcChar i.opcode 4)) := by
  cases i with
  | addA | addX | subA | subX | andA | andX | orA | orX | ldrA | ldrX | strA | strX => simp [Instr.reg?, Instr.opcode, opcChar]
  | _ => cases h

theorem Instr.reg?_of_noSelect {i : Instr} (h : i.group = .noSelect) : i.reg? = none := by
  cases i with
  | stop | deci | deco | chari | charo | ldbyte | stbyte => rfl
  | _ => cases h

/-- Settles O1: the word's two fields are the row's opcode and the instruction's own address field. -/
theorem decodeEncodeRoundTrip : Obligations.DecodeEncodeRoundTrip := decode_encode

/-- Settles O2: a decoded word is its row's opcode joined with its own address field; a word that an instruction encodes to decodes
to it, so it is not rejected. -/
theorem encodeDecodeRoundTrip : Obligations.EncodeDecodeRoundTrip := by
  intro w
  obtain ⟨row, hrow, hop, hdec⟩ | ⟨-, hdec⟩ := decode_cases w
  · rw [hdec]
    exact (encode_opcodeMap_row hrow _).trans (by rw [hop, joinWord_fields])
  · have hno : ∀ i : Instr, encode i ≠ w := fun i hi => by
      cases hdec.symm.trans ((congrArg decode hi).symm.trans (decode_encode i))
    rw [hdec]
    exact ⟨rfl, hno⟩

/-- Settles O5: the select characters of each group's opcodes. -/
theorem registerSelectBit : Obligations.RegisterSelectBit := by
  intro i
  rw [encode, opcodeOf_joinWord]
  exact ⟨Instr.reg?_of_unary, Instr.reg?_of_memory, Instr.reg?_of_noSelect⟩

/-- Settles O3: the seven words are decoded. -/
theorem sampleWordsDecode : Obligations.SampleWordsDecode := by
  unfold Obligations.SampleWordsDecode
  decide

end Sys2Proof
end

section
/-! PROOFS. Lines of instruction text (spec/30_encoding.md rules R61 to R65), with the lemmas that say once which lines are read as a
word and what number the digits of a hexadecimal string make. -/

namespace Sys2Proof.Machine

/-! ## The number a hexadecimal string stands for (R17, R18) -/

/-- The value of a concatenation: the first string's value is shifted past the second one's digits. -/
theorem val_append (s t : Digits) : val (s ++ t) = val s * 2 ^ t.length + val t := by
  induction s with
  | nil => simp [val_nil]
  | cons d s ih =>
    rw [List.cons_append, val_cons, val_cons, ih, List.length_append, pow_add]
    ring

/-- A string whose characters have the values `ns` expands to the 4 digits of each. -/
theorem hex2bin_of_values {h : List Char} {ns : List Nat} (hv : List.Forall₂ (fun c n => hexValue c = some n) h ns) :
    hex2bin h = some (ns.flatMap nibble) := by
  induction hv with
  | nil => rfl
  | cons hc _ ih => simp [hex2bin_cons, hc, ih]

theorem val_two_nibbles {a b : Nat} (ha : a < 16) (hb : b < 16) : val ([a, b].flatMap nibble) = a * 16 + b := by
  simp [val_append, val_nibble, ha, hb]

theorem val_four_nibbles {a b c d : Nat} (ha : a < 16) (hb : b < 16) (hc : c < 16) (hd : d < 16) :
    val ([a, b, c, d].flatMap nibble) = a * 4096 + b * 256 + c * 16 + d := by
  simp [val_append, val_nibble, ha, hb, hc, hd]
  ring

end Sys2Proof.Machine

namespace Sys2Proof

open Machine

/-! ## Which lines are read as a word (R61, R63, R64) -/

/-- In a line of 6 characters the address slice is all that follows the opcode (R62). -/
theorem take_five_drop_two {line : List Char} (hlen : line.length = 6) : (line.drop 2).take 5 = line.drop 2 :=
  List.take_of_length_le (by rw [List.length_drop]; omega)

/-- A line is hexadecimal when both its slices have digits. -/
theorem all_isHexDigit_eq (line : List Char) :
    line.all isHexDigit = ((hex2bin (line.take 2)).isSome && (hex2bin (line.drop 2)).isSome) := by
  rw [hex2bin_isSome, hex2bin_isSome, ← List.all_append, List.take_append_drop]

/-- A line of 6 characters is read as the word of its opcode and address digits, where both have them. -/
theorem readLine_eq_word {line : List Char} {op ad : Digits} (hlen : line.length = 6)
    (hop : hex2bin (line.take 2) = some op) (had : hex2bin (line.drop 2) = some ad) :
    readLine line = .word (joinWord (BitVec.ofNat 8 (val op)) (BitVec.ofNat 16 (val ad))) := by
  have hsentinel : line ≠ ['-', '1'] := fun h => by simp [h] at hlen
  rw [readLine, if_neg hsentinel, if_neg (not_not.2 hlen), take_five_drop_two hlen, hop, had]

/-- A well-formed line is read as a word: each slice of it is hexadecimal. -/
theorem readLine_of_wellFormed {line : List Char} (h : lineWellFormed line = true) : ∃ w, readLine line = .word w := by
  obtain ⟨hlen, hhex⟩ : line.length = 6 ∧ line.all isHexDigit = true := by
    rwa [lineWellFormed, Bool.and_eq_true, decide_eq_true_iff] at h
  rw [all_isHexDigit_eq, Bool.and_eq_true] at hhex
  obtain ⟨op, hop⟩ := Option.isSome_iff_exists.1 hhex.1
  obtain ⟨ad, had⟩ := Option.isSome_iff_exists.1 hhex.2
  exact ⟨_, readLine_eq_word hlen hop had⟩

/-- Only a well-formed line is read as a word: it has 6 characters, and both its slices have digits. -/
theorem wellFormed_of_readLine {line : List Char} {w : InstrWord} (h : readLine line = .word w) : lineWellFormed line = true := by
  unfold readLine at h
  split at h
  · cases h
  · split at h
    · cases h
    next hlen =>
      have hlen : line.length = 6 := not_not.1 hlen
      rw [take_five_drop_two hlen] at h
      split at h
      next op ad hop had => simp [lineWellFormed, hlen, all_isHexDigit_eq, hop, had]
      · cases h

/-! ## The line of a word (R65) -/

/-- The values of the 6 hexadecimal digits of a word. -/
def hexDigitsOf (w : InstrWord) : List Nat :=
  [(opcodeOf w).toNat / 16 % 16, (opcodeOf w).toNat % 16,
    (addressOf w).toNat / 4096 % 16, (addressOf w).toNat / 256 % 16, (addressOf w).toNat / 16 % 16, (addressOf w).toNat % 16]

theorem hexText_eq_map (w : InstrWord) : hexText w = (hexDigitsOf w).map hexChar := rfl

theorem hexDigitsOf_lt {w : InstrWord} {n : Nat} (h : n ∈ hexDigitsOf w) : n < 16 := by
  simp only [hexDigitsOf, List.mem_cons, List.not_mem_nil, or_false] at h
  omega

/-- A line whose 6 characters have the values of a word's digits is read as that word. -/
theorem readLine_of_hexDigitsOf {w : InstrWord} {line : List Char}
    (h : List.Forall₂ (fun c n => hexValue c = some n) line (hexDigitsOf w)) : readLine line = .word w := by
  have hop := hex2bin_of_values (List.forall₂_take 2 h)
  have had := hex2bin_of_values (List.forall₂_drop 2 h)
  have hopval : BitVec.ofNat 8 (val (((hexDigitsOf w).take 2).flatMap nibble)) = opcodeOf w := by
    have hlt := (opcodeOf w).isLt
    refine BitVec.eq_of_toNat_eq ?_
    rw [BitVec.toNat_ofNat, hexDigitsOf, List.take_succ_cons, List.take_succ_cons, List.take_zero,
      val_two_nibbles (by omega) (by omega)]
    omega
  have hadval : BitVec.ofNat 16 (val (((hexDigitsOf w).drop 2).flatMap nibble)) = addressOf w := by
    have hlt := (addressOf w).isLt
    refine BitVec.eq_of_toNat_eq ?_
    rw [BitVec.toNat_ofNat, hexDigitsOf, List.drop_succ_cons, List.drop_succ_cons, List.drop_zero,
      val_four_nibbles (by omega) (by omega) (by omega) (by omega)]
    omega
  rw [readLine_eq_word h.length_eq hop had, hopval, hadval, joinWord_fields]

/-- A word's digits written with characters of their values are read as the word. -/
theorem readLine_map_hexDigitsOf {f : Nat → Char} (hf : ∀ n < 16, hexValue (f n) = some n) (w : InstrWord) :
    readLine ((hexDigitsOf w).map f) = .word w :=
  readLine_of_hexDigitsOf (List.forall₂_map_left_iff.2 (List.forall₂_same.2 fun n hn => hf n (hexDigitsOf_lt hn)))

/-- Settles O7: in either case the characters have the values of the word's own digits. -/
theorem textLineRoundTrip : Obligations.TextLineRoundTrip := by
  intro w
  rw [hexText_eq_map, List.map_map]
  exact ⟨readLine_map_hexDigitsOf (fun n hn => (hexValue_hexChar n hn).1) w,
    readLine_map_hexDigitsOf (fun n hn => (hexValue_hexChar n hn).2) w⟩

/-- Settles O8: a line delivers what it is read as, and it is read as a word exactly when it is well formed. -/
theorem onlyWellFormedLinesAreDelivered : Obligations.OnlyWellFormedLinesAreDelivered := by
  refine fun line s => ⟨fun hbad => ?_, fun hgood => ?_⟩
  · unfold State.deliverLine
    split
    next w hread => cases (wellFormed_of_readLine hread).symm.trans hbad
    all_goals rfl
  · obtain ⟨w, hread⟩ := readLine_of_wellFormed hgood
    exact ⟨w, by rw [State.deliverLine, hread]⟩

end Sys2Proof
end

section
/-! PROOFS. The number of digits and the digit-string transforms (spec/00_scope.md rules R20 and R21, spec/41_unary.md rule R104): each
transform's arithmetic on a number of `n + 1` digits, and from it the rotate inverse law. -/

namespace Sys2Proof.Machine

/-! ## The number of digits (R20) -/

theorem blen_eq_size (u : Nat) : blen u = u.size := length_bin u

/-- A positive number has one digit more than some `n`. -/
theorem exists_size_eq_succ {u : Nat} (hu : 0 < u) : ∃ n, u.size = n + 1 := Nat.exists_eq_succ_of_ne_zero (Nat.size_pos.2 hu).ne'

/-- A number of `n + 1` digits lies between two successive powers of 2. -/
theorem bounds_of_size_eq {u n : Nat} (h : u.size = n + 1) : 2 ^ n ≤ u ∧ u < 2 ^ (n + 1) :=
  ⟨Nat.lt_size.1 (by omega), h ▸ Nat.lt_size_self u⟩

/-! ## The transforms' arithmetic (R21) -/

/-- Flipping every digit takes the value to its distance from all ones. -/
theorem val_map_not (s : Digits) : val (s.map (fun d => !d)) = 2 ^ s.length - 1 - val s := by
  induction s with
  | nil => rfl
  | cons d s ih =>
    have hlt := val_lt s
    rw [List.map_cons, val_cons, val_cons, ih, List.length_map, List.length_cons, pow_succ]
    cases d
    · rw [Bool.not_false, Bool.toNat_true, Bool.toNat_false]; omega
    · rw [Bool.not_true, Bool.toNat_true, Bool.toNat_false]; omega

theorem flipd_eq (u : Nat) : flipd u = 2 ^ blen u - 1 - u := by rw [flipd, val_map_not, val_bin, blen]

/-- The digits of `u` rotated left, as a shift with the carry brought round. -/
theorem rold_eq_shift {u n : Nat} (h : u.size = n + 1) : rold u = (u <<< 1) % 2 ^ (n + 1) ||| 1 := by
  obtain ⟨hlow, hhigh⟩ := bounds_of_size_eq h
  have hdrop : (u <<< 1) % 2 ^ (n + 1) = 2 ^ 1 * (u - 2 ^ n) := by
    rw [pow_succ] at hhigh ⊢
    rw [Nat.shiftLeft_eq, Nat.mod_eq_sub_mod (by omega), Nat.mod_eq_of_lt (by omega)]
    omega
  rw [rold_eq h, hdrop, ← Nat.two_pow_add_eq_or_of_lt (by decide), pow_one]

/-- The digits of `u` rotated right, as a shift with the dropped digit brought round. -/
theorem rord_eq_shift {u n : Nat} (h : u.size = n + 1) : rord u = (u >>> 1) ||| ((u &&& 1) <<< n) := by
  have hhalf : u / 2 < 2 ^ n := by
    have hhigh := (bounds_of_size_eq h).2
    rw [pow_succ] at hhigh
    omega
  rw [rord_eq h, Nat.two_pow_add_eq_or_of_lt hhalf, Nat.and_one_is_mod, Nat.shiftLeft_eq, Nat.shiftRight_one, Nat.or_comm, mul_comm]

/-! ## The rotate inverse law (R104) -/

/-- ROR undoes ROL exactly when the rotated string still has all its digits: with fewer, ROR gives a number that is too short, and
with all of them it brings the first digit back. -/
theorem rord_rold_iff_le {u n : Nat} (h : u.size = n + 1) : rord (rold u) = u ↔ 2 ^ n ≤ rold u := by
  obtain ⟨hlow, hhigh⟩ := bounds_of_size_eq h
  refine ⟨fun hback => ?_, fun hlong => ?_⟩
  · by_contra hshort
    have : rord (rold u) < 2 ^ n := rord_lt (by omega)
    omega
  · have hsize := size_eq_of_pow_le hlong (rold_lt hhigh)
    rw [rord_eq hsize, rold_eq h]
    have hmod : (2 * (u - 2 ^ n) + 1) % 2 = 1 := by omega
    rw [hmod]
    omega

/-- No digit is lost exactly when there is no second one or the value is large enough for it to be 1. -/
theorem pow_le_rold_iff {u n : Nat} (h : u.size = n + 1) : 2 ^ n ≤ rold u ↔ n = 0 ∨ 3 * 2 ^ (n - 1) ≤ u := by
  have hlow := (bounds_of_size_eq h).1
  rw [rold_eq h]
  cases n with
  | zero => simp
  | succ n =>
    have hone : 1 ≤ 2 ^ n := Nat.one_le_two_pow
    rw [pow_succ] at hlow ⊢
    rw [Nat.add_sub_cancel]
    omega

/-- The second digit of a number of `n + 2` digits is 1 exactly when the value reaches the two first digits' weights. -/
theorem bin_getElem?_one_iff {u n : Nat} (h : u.size = n + 2) : (bin u)[1]? = some true ↔ 3 * 2 ^ n ≤ u := by
  have hu : 0 < u := Nat.size_pos.1 (by omega)
  obtain ⟨t, ht⟩ := List.head?_eq_some_iff.1 (head?_bin hu)
  have hlen : t.length = n + 1 := by simpa [ht, h] using length_bin u
  obtain ⟨d, r, rfl⟩ := List.exists_cons_of_length_eq_add_one hlen
  have hr : r.length = n := by simpa using hlen
  have hval : 2 * 2 ^ n + (d.toNat * 2 ^ n + val r) = u := by
    simpa [ht, val_cons, hr, pow_succ, mul_comm] using val_bin u
  have hlt : val r < 2 ^ n := hr ▸ val_lt r
  have hsecond : (bin u)[1]? = some d := by rw [ht]; rfl
  rw [hsecond, Option.some_inj, ← hval]
  cases d
  · simp only [Bool.false_eq_true, Bool.toNat_false, false_iff]; omega
  · simp only [Bool.toNat_true, true_iff]; omega

/-- The law, by the value: no leading digit is lost. -/
theorem rord_rold_iff (u : Nat) : rord (rold u) = u ↔ blen u ≤ 1 ∨ 3 * 2 ^ (blen u - 2) ≤ u := by
  obtain rfl | hu := Nat.eq_zero_or_pos u
  · simp [blen_eq_size, rold, rord, rotateLeft, rotateRight, val_nil]
  · obtain ⟨n, h⟩ := exists_size_eq_succ hu
    have hone : n = 0 ↔ n + 1 ≤ 1 := by omega
    rw [rord_rold_iff_le h, pow_le_rold_iff h, blen_eq_size, h, hone, Nat.add_sub_add_right n 1 1]

/-- The law, by the second digit. -/
theorem rord_rold_iff_second_digit (u : Nat) : rord (rold u) = u ↔ blen u ≤ 1 ∨ (bin u)[1]? = some true := by
  rw [rord_rold_iff]
  refine or_congr_right' fun hlong => ?_
  rw [blen_eq_size] at hlong ⊢
  obtain ⟨n, h⟩ := Nat.exists_eq_add_of_le' (show 2 ≤ u.size by omega)
  rw [bin_getElem?_one_iff h, h, Nat.add_sub_cancel]

end Sys2Proof.Machine

namespace Sys2Proof

open Machine

/-- Settles O10: `blen` counts what the library's `Nat.size` counts. -/
theorem digitLengthBounds : Obligations.DigitLengthBounds := by
  refine ⟨rfl, fun u hu => ?_, fun x => ?_⟩
  · obtain ⟨n, h⟩ := exists_size_eq_succ hu
    rw [blen_eq_size, h]
    exact bounds_of_size_eq h
  · rw [blen_eq_size]
    exact Nat.size_le.2 x.isLt

/-- Settles O11: for 0 there is no digit, and for `n + 1` digits each rotation is its shift. -/
theorem digitTransformsAreArithmetic : Obligations.DigitTransformsAreArithmetic := by
  intro u
  refine ⟨flipd_eq u, ?_⟩
  rw [blen_eq_size]
  obtain rfl | hu := Nat.eq_zero_or_pos u
  · exact ⟨rfl, rfl⟩
  · obtain ⟨n, h⟩ := exists_size_eq_succ hu
    rw [h, if_neg (Nat.succ_ne_zero n), if_neg (Nat.succ_ne_zero n), Nat.add_sub_cancel]
    exact ⟨rold_eq_shift h, rord_eq_shift h⟩

/-- Settles O12: the law by the second digit and by the value. -/
theorem rotateInverseLaw : Obligations.RotateInverseLaw := fun u => ⟨rord_rold_iff_second_digit u, rord_rold_iff u⟩

/-- Settles O13: both rotations fit the register they are narrowed to, so the register comes back exactly when the number does. -/
theorem rotateLeftThenRightOnRegisters : Obligations.RotateLeftThenRightOnRegisters := by
  refine fun s a b => ⟨⟨_, _, rfl, rfl, ?_⟩, ⟨_, _, rfl, rfl, ?_⟩⟩ <;> rw [← rord_rold_iff, ← BitVec.toNat_inj]
  · show (s16 (rord (s16 (rold s.regs.a.toNat)).toNat)).toNat = _ ↔ _
    rw [s16_rord_toNat, s16_rold_toNat]
  · show (u16 (rord (u16 (rold s.regs.x.toNat)).toNat)).toNat = _ ↔ _
    have hx := s.regs.x.isLt
    rw [u16_natCast_toNat (rord_lt (BitVec.isLt _)), u16_natCast_toNat (rold_lt hx)]

end Sys2Proof
end

section
/-! PROOFS. The engine (spec/40_engine.md, spec/70_reset_and_hazards.md section 1): what the common part of a step leaves in each field,
and from it the statements about steps that rest on no single instruction's effect. -/

namespace Sys2Proof.Machine

/-! ## What the common part of a step leaves (R78 to R81; log 5) -/

/-- The common part writes the registers, the mode, the instruction port and the ports that clear, and nothing else. -/
theorem beginStep_eq (s : State) (rest : List InstrWord) :
    s.beginStep rest = { s with regs := (s.beginStep rest).regs, mode := .running, instrIn := rest, status := none,
                                outDec := none, outChar := none } := by
  cases h : s.mode with
  | uninitialized => rw [beginStep_uninitialized h]
  | running => rw [beginStep_running h, h]

@[simp] theorem beginStep_decIn (s : State) (rest : List InstrWord) : (s.beginStep rest).decIn = s.decIn := by rw [beginStep_eq]
@[simp] theorem beginStep_charIn (s : State) (rest : List InstrWord) : (s.beginStep rest).charIn = s.charIn := by rw [beginStep_eq]
@[simp] theorem beginStep_maskIn (s : State) (rest : List InstrWord) : (s.beginStep rest).maskIn = s.maskIn := by rw [beginStep_eq]
@[simp] theorem beginStep_waiting (s : State) (rest : List InstrWord) : (s.beginStep rest).waiting = s.waiting := by rw [beginStep_eq]
@[simp] theorem beginStep_status (s : State) (rest : List InstrWord) : (s.beginStep rest).status = none := by rw [beginStep_eq]
@[simp] theorem beginStep_outDec (s : State) (rest : List InstrWord) : (s.beginStep rest).outDec = none := by rw [beginStep_eq]
@[simp] theorem beginStep_outChar (s : State) (rest : List InstrWord) : (s.beginStep rest).outChar = none := by rw [beginStep_eq]
@[simp] theorem beginStep_sent (s : State) (rest : List InstrWord) : (s.beginStep rest).sent = s.sent := by rw [beginStep_eq]

/-- A later step's common part loads `IR` and counts `PC`. -/
theorem beginStep_regs_of_running {s : State} (h : s.mode = .running) (rest : List InstrWord) :
    (s.beginStep rest).regs =
      { s.regs with ir := u24 (s.mem.read s.regs.pc.toNat).toInt, pc := u16 ((s.regs.pc.toNat : Int) + 1) } := by
  rw [beginStep_running h]

/-- The first step's common part does not look at the registers (R157). -/
theorem beginStep_with_regs {s : State} (h : s.mode = .uninitialized) (r : Regs) (rest : List InstrWord) :
    ({ s with regs := r } : State).beginStep rest = s.beginStep rest := by
  rw [beginStep_uninitialized h]
  exact beginStep_uninitialized (s := { s with regs := r }) h rest

/-- `PC` is counted modulo 2^16. -/
theorem u16_succ_toNat (pc : Word) : (u16 ((pc.toNat : Int) + 1)).toNat = (pc.toNat + 1) % 65536 := by
  have h := u16_toNat ((pc.toNat : Int) + 1)
  omega

/-- Every step answers a next state (R134, R135). -/
theorem step_answers (s : State) : ∃ t, step s = .next t := by
  obtain ⟨i, -, hstep⟩ | ⟨-, -, hstep⟩ | ⟨w, rest, -, -, hstep⟩ := step_cases s
  · obtain ⟨t, ht, -⟩ := exec_keepsControl i s
    exact ⟨t, hstep.trans ht⟩
  · exact ⟨s, hstep⟩
  · obtain ⟨t, ht, -⟩ := dispatch_keepsControl w (s.beginStep rest)
    exact ⟨t, hstep.trans ht⟩

/-- The step of a word that no row matches completes as the report of it, after the common part (R88). -/
theorem step_of_invalidOpcode {s : State} {w : InstrWord} {rest : List InstrWord} (hwait : s.waiting = none)
    (hin : s.instrIn = w :: rest) (hop : opcodeOf w ∉ opcodeMap.map Prod.fst) :
    step s = .next ((s.beginStep rest).report .invalidOpcode) := by
  rw [step_word hwait hin, dispatch_invalid (decode_of_not_mem hop)]

/-- The step of a STOP word completes as the report of it, after the common part (R86). -/
theorem step_of_stop {s : State} {addr : Word} {rest : List InstrWord} (hwait : s.waiting = none)
    (hin : s.instrIn = joinWord 0x00#8 addr :: rest) : step s = .next ((s.beginStep rest).report .stop) := by
  rw [step_word hwait hin]
  exact dispatch_instr (decode_joinWord_opcode (.stop addr) addr) (s.beginStep rest)

end Sys2Proof.Machine

namespace Sys2Proof

open Machine Safety

/-- Settles O14: reset memory is empty, and nothing has been reported or asked for. -/
theorem resetState : Obligations.ResetState :=
  ⟨rfl, fun _ => rfl, Memory.wf_reset, rfl, rfl, rfl, rfl⟩

/-- Settles O15: the two ways a step begins, with the well-formedness every instruction has. -/
theorem stepRunsDecodedInstruction : Obligations.StepRunsDecodedInstruction := by
  refine ⟨fun s w rest i hwait hin hdec => ⟨i.wellFormed_always, ?_⟩, fun s i => step_waiting⟩
  rw [step_word hwait hin, dispatch_instr hdec]

/-- Settles O17: the common part loads `IR` and counts `PC`, and dispatch keeps the control state. -/
theorem runningStepLoadsIRAndCountsPC : Obligations.RunningStepLoadsIRAndCountsPC := by
  intro s w rest hmode hwait hin
  obtain ⟨t, ht, hpc, hsp, hir, hrun, hinstr⟩ := dispatch_keepsControl w (s.beginStep rest)
  rw [beginStep_regs_of_running hmode] at hpc hsp hir
  refine ⟨t, (step_word hwait hin).trans ht, ?_, ?_, hsp, hrun.trans (beginStep_mode s rest), hinstr.trans (beginStep_instrIn s rest)⟩
  · rw [hir]; exact u24_toNat _
  · rw [hpc]; exact u16_succ_toNat _

/-- Settles O18: the control state is what no effect writes. -/
theorem effectsKeepPCSPIRAndMode : Obligations.EffectsKeepPCSPIRAndMode := exec_keepsControl

/-- Settles O20: the effect is the report alone, so the state after the step waits for nothing and the next word is taken. -/
theorem stopOnlyReportsStop : Obligations.StopOnlyReportsStop := by
  refine ⟨fun addr s => ⟨decode_joinWord_opcode (.stop addr) addr, s.report .stop, rfl, ⟨rfl, rfl⟩, rfl, rfl, fun _ => rfl,
    ⟨rfl, rfl, rfl, rfl⟩, rfl, rfl, rfl⟩, fun s addr w rest hwait hin => ?_⟩
  refine ⟨_, step_of_stop hwait hin, rfl, beginStep_mode s _, fun hmode => beginStep_regs_of_uninitialized hmode _, ?_⟩
  exact step_word (State.report_waiting _ _) (beginStep_instrIn s _)

/-- Settles O21: the opcodes named are in no row, and the step is the common part and the report. -/
theorem invalidOpcodeOnlyReports : Obligations.InvalidOpcodeOnlyReports := by
  refine ⟨by decide, fun i low => Instr.opcode_or_low_not_mem, fun s w rest hwait hin hop => ?_⟩
  refine ⟨_, step_of_invalidOpcode hwait hin hop, ⟨rfl, rfl⟩, beginStep_mode s rest, fun a => by simp,
    fun hmode => beginStep_regs_of_uninitialized hmode rest, fun hmode => ?_, by simp⟩
  rw [State.report_regs, beginStep_regs_of_running hmode]
  exact ⟨rfl, rfl, rfl, u24_toNat _, u16_succ_toNat _⟩

/-- Settles O24: every arm of the dispatcher answers a next state, and so does every way a step begins. -/
theorem everyStepAnswersNext : Obligations.EveryStepAnswersNext :=
  ⟨fun i s => (exec_keepsControl i s).imp fun _ h => h.1, step_answers⟩

/-- Settles O25: the common part of the first step does not look at the registers, and only it could. -/
theorem resetRegistersUnobservable : Obligations.ResetRegistersUnobservable := by
  intro s r hmode hwait hin
  obtain ⟨w, rest, hin⟩ := List.exists_cons_of_ne_nil hin
  rw [step_word hwait hin, ← beginStep_with_regs hmode r]
  exact step_word (s := { s with regs := r }) hwait hin

end Sys2Proof
end

section
/-! PROOFS. How an instruction ends (spec/60_exceptions.md rules R131, R141, spec/42_io.md rule R105): it waits for its missing input or
completes with its status; and the statements about waiting, late input and the ignored address field. -/

namespace Sys2Proof.Machine

open Sys2Proof.Safety

/-! ## Waiting or completing -/

theorem withDec_completes {s : State} (h : s.decIn ≠ []) (i : Instr) (f : Cell → State → State) :
    ∃ t, s.withDec i f = .next t ∧ CompletedWith .ok t := by
  obtain ⟨v, rest, hv⟩ := List.exists_cons_of_ne_nil h
  exact ⟨_, withDec_cons hv i f, rfl, rfl⟩

theorem withChar_completes {s : State} (h : s.charIn ≠ []) (i : Instr) (f : Byte → State → State) :
    ∃ t, s.withChar i f = .next t ∧ CompletedWith .ok t := by
  obtain ⟨c, rest, hc⟩ := List.exists_cons_of_ne_nil h
  exact ⟨_, withChar_cons hc i f, rfl, rfl⟩

theorem withMask_completes {s : State} (h : s.maskIn ≠ []) (i : Instr) (f : Byte → State → State) :
    ∃ t, s.withMask i f = .next t ∧ CompletedWith .ok t := by
  obtain ⟨m, rest, hm⟩ := List.exists_cons_of_ne_nil h
  exact ⟨_, withMask_cons hm i f, rfl, rfl⟩

/-- An instruction without its input waits for it, and that is all (R141). -/
theorem exec_of_inputMissing {i : Instr} {s : State} (h : InputMissing i s) : exec i s = .next (s.await i) := by
  cases i with
  | deci => exact withDec_nil h _ _
  | chari => exact withChar_nil h _ _
  | andA | andX | orA | orX => exact withMask_nil h _ _
  | _ => exact h.elim

/-- An instruction that takes no input, or has its input, completes with its own status (R83, R86). -/
theorem exec_of_not_inputMissing {i : Instr} {s : State} (h : ¬ InputMissing i s) :
    ∃ t, exec i s = .next t ∧ CompletedWith (statusOf (.instr i)) t := by
  cases i with
  | deci => exact withDec_completes h _ _
  | chari => exact withChar_completes h _ _
  | andA | andX | orA | orX => exact withMask_completes h _ _
  | _ => exact ⟨_, rfl, rfl, rfl⟩

/-- Whether the input is missing, from an equation for each list of inputs. -/
theorem inputMissing_congr {s t : State} (hdec : t.decIn = s.decIn) (hchar : t.charIn = s.charIn) (hmask : t.maskIn = s.maskIn)
    (i : Instr) : InputMissing i t ↔ InputMissing i s := by
  rw [InputMissing, InputMissing, hdec, hchar, hmask]

theorem inReqOf_ne_none_of_inputMissing {i : Instr} {s : State} (h : InputMissing i s) : inReqOf i ≠ .none := by
  intro hnone
  rw [InputMissing, hnone] at h
  exact h

/-- An answer of the kind the instruction takes ends its wait. -/
theorem not_inputMissing_deliver {i : Instr} {d : Delivery} (h : Answers i d) (s : State) : ¬ InputMissing i (s.deliver d) := by
  unfold Answers at h
  unfold InputMissing
  split at h
  next hreq => rw [hreq]; exact List.append_ne_nil_of_right_ne_nil _ (List.cons_ne_nil _ _)
  next hreq => rw [hreq]; exact List.append_ne_nil_of_right_ne_nil _ (List.cons_ne_nil _ _)
  next hreq => rw [hreq]; exact List.append_ne_nil_of_right_ne_nil _ (List.cons_ne_nil _ _)
  · exact h.elim

/-- An instruction word answers no request. -/
theorem not_answers_instr (i : Instr) (w : InstrWord) : ¬ Answers i (.instr w) := by
  unfold Answers
  cases inReqOf i <;> exact id

theorem deliver_instrIn_of_answers {i : Instr} {d : Delivery} (h : Answers i d) (s : State) : (s.deliver d).instrIn = s.instrIn := by
  cases d with
  | instr w => exact absurd h (not_answers_instr i w)
  | _ => rfl

/-- The instructions that take an input are DECI, CHARI and the four forms of AND and OR (R105). -/
theorem inReqOf_ne_none_iff (i : Instr) : inReqOf i ≠ .none ↔ ∃ addr : Word, i = .deci addr ∨ i = .chari addr ∨ i = .andA addr ∨
    i = .andX addr ∨ i = .orA addr ∨ i = .orX addr := by
  constructor
  · intro h
    cases i with
    | deci addr | chari addr | andA addr | andX addr | orA addr | orX addr => exact ⟨addr, by simp⟩
    | _ => exact absurd rfl h
  · rintro ⟨addr, rfl | rfl | rfl | rfl | rfl | rfl⟩ <;> exact InReq.noConfusion

/-- STOP alone completes with another status than `Ok` (R83, R86). -/
theorem eq_stop_of_statusOf_ne_ok {i : Instr} (h : statusOf (.instr i) ≠ .ok) : ∃ addr, i = .stop addr := by
  cases i with
  | stop addr => exact ⟨addr, rfl⟩
  | _ => exact absurd rfl h

/-- An instruction that takes an input completes with `Ok`. -/
theorem statusOf_of_inReqOf_ne_none {i : Instr} (h : inReqOf i ≠ .none) : statusOf (.instr i) = .ok := by
  by_contra hne
  obtain ⟨addr, rfl⟩ := eq_stop_of_statusOf_ne_ok hne
  exact h rfl

/-! ## What no effect reads: `PC`, `SP`, `IR` and the instruction that waits (R27 to R29; log 4) -/

/-- The same state with other values in the fields no effect reads. -/
def State.setUnread (pc sp : Word) (ir : InstrWord) (wait : Option Instr) (s : State) : State :=
  { s with regs := { s.regs with pc := pc, sp := sp, ir := ir }, waiting := wait }

section
variable {pc sp : Word} {ir : InstrWord} {wait : Option Instr}

/-- An input instruction ignores what its effect ignores: it sets `waiting` itself, whether it waits or completes. -/
theorem withDec_setUnread {f : Cell → State → State}
    (hf : ∀ v u, f v (u.setUnread pc sp ir wait) = (f v u).setUnread pc sp ir wait) (i : Instr) (s : State) :
    ∃ t, s.withDec i f = .next t ∧ (s.setUnread pc sp ir wait).withDec i f = .next (t.setUnread pc sp ir t.waiting) := by
  cases h : s.decIn with
  | nil => exact ⟨_, withDec_nil h i f, withDec_nil (s := s.setUnread pc sp ir wait) h i f⟩
  | cons v rest =>
    refine ⟨_, withDec_cons h i f, (withDec_cons (s := s.setUnread pc sp ir wait) h i f).trans ?_⟩
    exact congrArg (fun u : State => Host.Outcome.next (u.report .ok)) (hf v { s with decIn := rest })

theorem withChar_setUnread {f : Byte → State → State}
    (hf : ∀ c u, f c (u.setUnread pc sp ir wait) = (f c u).setUnread pc sp ir wait) (i : Instr) (s : State) :
    ∃ t, s.withChar i f = .next t ∧ (s.setUnread pc sp ir wait).withChar i f = .next (t.setUnread pc sp ir t.waiting) := by
  cases h : s.charIn with
  | nil => exact ⟨_, withChar_nil h i f, withChar_nil (s := s.setUnread pc sp ir wait) h i f⟩
  | cons c rest =>
    refine ⟨_, withChar_cons h i f, (withChar_cons (s := s.setUnread pc sp ir wait) h i f).trans ?_⟩
    exact congrArg (fun u : State => Host.Outcome.next (u.report .ok)) (hf c { s with charIn := rest })

theorem withMask_setUnread {f : Byte → State → State}
    (hf : ∀ m u, f m (u.setUnread pc sp ir wait) = (f m u).setUnread pc sp ir wait) (i : Instr) (s : State) :
    ∃ t, s.withMask i f = .next t ∧ (s.setUnread pc sp ir wait).withMask i f = .next (t.setUnread pc sp ir t.waiting) := by
  cases h : s.maskIn with
  | nil => exact ⟨_, withMask_nil h i f, withMask_nil (s := s.setUnread pc sp ir wait) h i f⟩
  | cons m rest =>
    refine ⟨_, withMask_cons h i f, (withMask_cons (s := s.setUnread pc sp ir wait) h i f).trans ?_⟩
    exact congrArg (fun u : State => Host.Outcome.next (u.report .ok)) (hf m { s with maskIn := rest })

/-- With other values in the fields it does not read, an instruction does the same and leaves `PC`, `SP` and `IR` there. -/
theorem exec_setUnread (pc sp : Word) (ir : InstrWord) (wait : Option Instr) (i : Instr) (s : State) :
    ∃ t, exec i s = .next t ∧ exec i (s.setUnread pc sp ir wait) = .next (t.setUnread pc sp ir t.waiting) := by
  cases i with
  | deci addr => exact withDec_setUnread (f := State.memWrite (effAddr addr)) (fun _ _ => rfl) (.deci addr) s
  | chari addr => exact withChar_setUnread (f := fun c u => u.memWrite (effAddr addr) (zextByte32 c)) (fun _ _ => rfl) (.chari addr) s
  | andA addr => exact withMask_setUnread (f := andA) (fun _ _ => rfl) (.andA addr) s
  | andX addr => exact withMask_setUnread (f := andX) (fun _ _ => rfl) (.andX addr) s
  | orA addr => exact withMask_setUnread (f := orA Config.orIsAnd) (fun _ _ => rfl) (.orA addr) s
  | orX addr => exact withMask_setUnread (f := orX Config.orIsAnd) (fun _ _ => rfl) (.orX addr) s
  | _ => exact ⟨_, rfl, rfl⟩

end

/-- An instruction does the same whether or not a step was waiting. -/
theorem exec_await (i j : Instr) (s : State) : exec i (s.await j) = exec i s := by
  obtain ⟨t, ht, hunread⟩ := exec_setUnread s.regs.pc s.regs.sp s.regs.ir (some j) i s
  obtain ⟨t', ht', hpc, hsp, hir, -, -⟩ := exec_keepsControl i s
  obtain rfl : t = t' := by cases ht.symm.trans ht'; rfl
  have hregs : t.setUnread s.regs.pc s.regs.sp s.regs.ir t.waiting = t := by
    rw [State.setUnread, ← hpc, ← hsp, ← hir]
  rw [hregs, ← ht] at hunread
  exact hunread

/-! ## The wait, the common part and a delivery of input -/

theorem await_deliver (s : State) (i : Instr) (d : Delivery) : (s.await i).deliver d = (s.deliver d).await i := by
  cases d <;> rfl

/-- The common part of a step is over before the input is looked at: the delivery may come before it or after. -/
theorem beginStep_deliver {i : Instr} {d : Delivery} (h : Answers i d) (s : State) (rest : List InstrWord) :
    (s.deliver d).beginStep rest = (s.beginStep rest).deliver d := by
  cases d with
  | instr w => exact absurd h (not_answers_instr i w)
  | _ =>
    cases hmode : s.mode with
    | uninitialized => rw [beginStep_uninitialized hmode]; exact beginStep_uninitialized ((s.deliver_mode _).trans hmode) rest
    | running => rw [beginStep_running hmode]; exact beginStep_running ((s.deliver_mode _).trans hmode) rest

end Sys2Proof.Machine

namespace Sys2Proof

open Machine Safety

/-- Settles O19: an instruction does the same whatever the fields it does not read hold. -/
theorem effectsIgnorePCSPAndIR : Obligations.EffectsIgnorePCSPAndIR := by
  intro i s t pc sp ir ht
  obtain ⟨t', ht', hunread⟩ := exec_setUnread pc sp ir s.waiting i s
  cases ht.symm.trans ht'
  exact hunread

/-- Settles O22: a word's step is a report of an invalid opcode, a wait, or the completion of its instruction; the last with
another status than `Ok` only for STOP, which sends nothing. -/
theorem statusOfCompletedStep : Obligations.StatusOfCompletedStep := by
  refine ⟨rfl, rfl, rfl, fun s w rest hwait hin => ?_⟩
  rw [step_word hwait hin]
  cases hdec : decode w with
  | invalidOpcode op =>
    refine ⟨_, dispatch_invalid hdec _, fun _ => ⟨rfl, rfl⟩, fun h => absurd rfl h, fun _ => ?_⟩
    exact ⟨beginStep_outDec s rest, beginStep_outChar s rest⟩
  | instr i =>
    rw [dispatch_instr hdec]
    by_cases hmissing : InputMissing i (s.beginStep rest)
    · refine ⟨_, exec_of_inputMissing hmissing, fun h => (Option.some_ne_none i h).elim, fun _ => ?_, fun _ => ?_⟩
      · simp [State.regsPort]
      · simp
    · obtain ⟨t, ht, hstatus, hnone⟩ := exec_of_not_inputMissing hmissing
      refine ⟨t, ht, fun _ => ⟨hstatus, by rw [State.regsPort, hstatus]⟩, fun h => absurd hnone h, fun h => ?_⟩
      obtain ⟨addr, rfl⟩ := eq_stop_of_statusOf_ne_ok (h.resolve_left (not_not.2 hnone))
      cases ht
      exact ⟨beginStep_outDec s rest, beginStep_outChar s rest⟩

/-- Settles O26: of these only AND and OR hand their address field on, to the wait for a mask, and with a mask there is no wait. -/
theorem ignoredAddressHasNoEffect : Obligations.IgnoredAddressHasNoEffect := by
  intro i a s huse hinput
  cases i with
  | andA | andX | orA | orX =>
    obtain ⟨m, rest, hm⟩ := List.exists_cons_of_ne_nil hinput
    exact (withMask_cons hm _ _).trans (withMask_cons hm _ _).symm
  | stop | notA | notX | shlA | shlX | shrA | shrX | rolA | rolX | rorA | rorX => rfl
  | _ => cases huse

/-- Settles O27: the wait is the only change, it repeats itself, and an answer ends it. -/
theorem inputInstructionsBlock : Obligations.InputInstructionsBlock := by
  refine ⟨inReqOf_ne_none_iff, fun i s hmissing => ?_⟩
  have hwaits : step (s.await i) = .next (s.await i) := by
    rw [step_waiting (State.await_waiting s i), exec_await, exec_of_inputMissing hmissing]
  refine ⟨_, exec_of_inputMissing hmissing, rfl, rfl, rfl, fun _ => rfl, ⟨rfl, rfl, rfl, rfl⟩, ⟨rfl, rfl, rfl⟩, rfl, hwaits,
    fun d hd => ?_⟩
  obtain ⟨u, hu, hstatus, hnone⟩ := exec_of_not_inputMissing (not_inputMissing_deliver hd (s.await i))
  rw [statusOf_of_inReqOf_ne_none (inReqOf_ne_none_of_inputMissing hmissing)] at hstatus
  refine ⟨u, ?_, ⟨hstatus, hnone⟩, by rw [State.inReq, hnone]⟩
  rw [step_waiting ((State.deliver_waiting _ d).trans (State.await_waiting s i)), hu]

/-- Settles O28: the instruction runs on the same state, but for the wait, which it does not read. -/
theorem lateInputGivesSameResult : Obligations.LateInputGivesSameResult := by
  intro s w rest i d hwait hin hdec hmissing hd
  have hmissing' : InputMissing i (s.beginStep rest) :=
    (inputMissing_congr (beginStep_decIn s rest) (beginStep_charIn s rest) (beginStep_maskIn s rest) i).2 hmissing
  obtain ⟨u, hu, -⟩ := exec_of_not_inputMissing (not_inputMissing_deliver hd (s.beginStep rest))
  refine ⟨(s.beginStep rest).await i, u, ?_, ?_, ?_⟩
  · rw [step_word hwait hin, dispatch_instr hdec, exec_of_inputMissing hmissing']
  · rw [step_waiting ((State.deliver_waiting _ d).trans (State.await_waiting _ i)), await_deliver, exec_await, hu]
  · rw [step_word ((State.deliver_waiting s d).trans hwait) ((deliver_instrIn_of_answers hd s).trans hin), dispatch_instr hdec,
      beginStep_deliver hd, hu]

end Sys2Proof
end

section
/-! PROOFS. Memory as canonical data and the invariant (spec/20_memory.md section 1, spec/10_state.md rule R28, spec/60_exceptions.md
rules R141 and R153; log 9): it holds at reset, every step and every delivery keeps it, so it holds of every reachable state. -/

namespace Sys2Proof.Machine

open Sys2Proof.Safety

/-! ## Canonical memories that read alike (log 9) -/

theorem Memory.read_cons_same (k : Nat) (v : Cell) (m : Memory) : Memory.read ((k, v) :: m) k = v := if_pos rfl

theorem Memory.read_cons_other {k a : Nat} (h : k ≠ a) (v : Cell) (m : Memory) : Memory.read ((k, v) :: m) a = m.read a := if_neg h

/-- Below its first address a memory lists nothing. -/
theorem Memory.read_of_lt {m : Memory} {a : Nat} (h : ∀ e ∈ m, a < e.1) : m.read a = unlistedCell := by
  induction m with
  | nil => rfl
  | cons e m ih =>
    obtain ⟨ha, hm⟩ := List.forall_mem_cons.1 h
    exact (Memory.read_cons_other ha.ne' e.2 m).trans (ih hm)

/-- A canonical memory is a listed cell that does not read as unlisted, below a canonical rest. -/
theorem Memory.wf_cons {k : Nat} {v : Cell} {m : Memory} (h : Memory.wf ((k, v) :: m)) :
    v ≠ unlistedCell ∧ (∀ e ∈ m, k < e.1) ∧ m.wf := by
  obtain ⟨hsorted, hcells⟩ := h
  obtain ⟨hk, hm⟩ := List.pairwise_cons.1 hsorted
  obtain ⟨⟨-, hv⟩, hrest⟩ := List.forall_mem_cons.1 hcells
  exact ⟨hv, hk, hm, hrest⟩

/-- Another memory that reads the same at a canonical one's first address lists that address or a lower one first. -/
theorem Memory.le_of_read_eq {k l : Nat} {v w : Cell} {m n : Memory} (hm : Memory.wf ((k, v) :: m)) (hn : Memory.wf ((l, w) :: n))
    (h : Memory.read ((k, v) :: m) k = Memory.read ((l, w) :: n) k) : l ≤ k := by
  by_contra hlt
  obtain ⟨-, hgt, -⟩ := Memory.wf_cons hn
  have hbelow : ∀ e ∈ (l, w) :: n, k < e.1 := List.forall_mem_cons.2 ⟨by omega, fun e he => by have := hgt e he; omega⟩
  rw [Memory.read_cons_same, Memory.read_of_lt hbelow] at h
  exact (Memory.wf_cons hm).1 h

/-- A canonical memory with a listed cell does not read as an empty one. -/
theorem Memory.read_cons_ne_nil {k : Nat} {v : Cell} {m : Memory} (h : Memory.wf ((k, v) :: m)) :
    Memory.read ((k, v) :: m) k ≠ Memory.read [] k := by
  rw [Memory.read_cons_same]
  exact (Memory.wf_cons h).1

/-- Canonical memories that read alike list the same cells: the first addresses are each not above the other, and then the rests read
alike. -/
theorem Memory.eq_of_read_eq {m n : Memory} (hm : m.wf) (hn : n.wf) (h : ∀ a, m.read a = n.read a) : m = n := by
  induction m generalizing n with
  | nil =>
    cases n with
    | nil => rfl
    | cons f n => exact absurd (h f.1).symm (Memory.read_cons_ne_nil hn)
  | cons e m ih =>
    cases n with
    | nil => exact absurd (h e.1) (Memory.read_cons_ne_nil hm)
    | cons f n =>
      obtain ⟨k, v⟩ := e
      obtain ⟨l, w⟩ := f
      obtain rfl : k = l := le_antisymm (Memory.le_of_read_eq hn hm (h l).symm) (Memory.le_of_read_eq hm hn (h k))
      obtain rfl : v = w := by simpa only [Memory.read_cons_same] using h k
      obtain ⟨-, hgtm, hm'⟩ := Memory.wf_cons hm
      obtain ⟨-, hgtn, hn'⟩ := Memory.wf_cons hn
      have hrest : ∀ a, Memory.read m a = Memory.read n a := fun a => by
        by_cases ha : k = a
        · subst ha; rw [Memory.read_of_lt hgtm, Memory.read_of_lt hgtn]
        · simpa only [Memory.read_cons_other ha] using h a
      rw [ih hm' hn' hrest]

/-! ## The invariant along a step -/

/-- A store target is a cell of the array. -/
theorem lt_memCells_of_storeTarget {i : Instr} {a : Nat} (h : storeTarget i = some a) : a < Config.memCells := by
  obtain ⟨addr, rfl, -⟩ := (storeTarget_eq_some_iff i a).1 h
  exact effAddr_lt addr

/-- What writes one cell of the array at most keeps the canonical form. -/
theorem WritesAtMost.wf {target : Option Nat} {s t : State} (h : WritesAtMost target s t)
    (hlt : ∀ a, target = some a → a < Config.memCells) (hwf : s.mem.wf) : t.mem.wf := by
  obtain hmem | ⟨ea, v, htarget, hmem⟩ := h
  · rwa [hmem]
  · rw [hmem]
    exact Memory.wf_write v (hlt ea htarget) hwf

/-- The invariant of a core that runs, of a step begun and not yet reported: what an effect may start from. -/
structure Begun (s : State) : Prop where
  memory : s.mem.wf
  stackPointer : s.regs.sp = 0
  running : s.mode = .running
  status : s.status = none
  outDec : s.outDec = none
  outChar : s.outChar = none

/-- The common part of a step leads from the invariant to an effect's start. -/
theorem begun_beginStep {s : State} (h : Inv s) (rest : List InstrWord) : Begun (s.beginStep rest) where
  memory := by rw [beginStep_mem]; exact h.memory
  stackPointer := by
    cases hmode : s.mode with
    | uninitialized => rw [beginStep_regs_of_uninitialized hmode]
    | running => rw [beginStep_regs_of_running hmode]; exact h.stackPointer hmode
  running := beginStep_mode s rest
  status := beginStep_status s rest
  outDec := beginStep_outDec s rest
  outChar := beginStep_outChar s rest

/-- A waiting step is at its effect's start. -/
theorem begun_of_waiting {s : State} {i : Instr} (h : Inv s) (hwait : s.waiting = some i) : Begun s := by
  have hrun : s.mode = .running := by
    cases hmode : s.mode with
    | uninitialized =>
      obtain ⟨-, hnone, -⟩ := h.unstarted hmode
      cases hwait.symm.trans hnone
    | running => rfl
  obtain ⟨-, hstatus, hdec, hchar⟩ := h.waiting i hwait
  exact ⟨h.memory, h.stackPointer hrun, hrun, hstatus, hdec, hchar⟩

/-- A step that completes from an effect's start, with canonical memory and the control state kept, meets the invariant. -/
theorem inv_of_completed {s t : State} (h : Begun s) (hkeep : KeepsControl s t) (hmem : t.mem.wf) (hnone : t.waiting = none) :
    Inv t := by
  obtain ⟨-, hsp, -, hmode, -⟩ := hkeep
  have hrun : t.mode = .running := hmode.trans h.running
  refine ⟨hmem, fun _ => hsp.trans h.stackPointer, fun hun => ?_, fun i hi => ?_⟩
  · cases hun.symm.trans hrun
  · cases hi.symm.trans hnone

/-- A step that waits at its effect's start meets the invariant. -/
theorem inv_await {s : State} {i : Instr} (h : Begun s) (hmissing : InputMissing i s) : Inv (s.await i) where
  memory := h.memory
  stackPointer := fun _ => h.stackPointer
  unstarted := fun hun => by cases hun.symm.trans h.running
  waiting := fun j hj => by
    cases hj
    exact ⟨inReqOf_ne_none_of_inputMissing hmissing, h.status, h.outDec, h.outChar⟩

/-- An effect leads from its start to the invariant: it waits, or completes after one write at most. -/
theorem inv_exec {s t : State} {i : Instr} (h : Begun s) (ht : exec i s = .next t) : Inv t := by
  by_cases hmissing : InputMissing i s
  · cases (exec_of_inputMissing hmissing).symm.trans ht
    exact inv_await h hmissing
  · obtain ⟨u, hu, -, hnone⟩ := exec_of_not_inputMissing hmissing
    cases hu.symm.trans ht
    obtain ⟨u, hu, hkeep⟩ := exec_keepsControl i s
    cases hu.symm.trans ht
    obtain ⟨u, hu, hwrites⟩ := exec_writesAtMost i s
    cases hu.symm.trans ht
    exact inv_of_completed h hkeep (hwrites.wf (fun _ => lt_memCells_of_storeTarget) h.memory) hnone

theorem inv_dispatch {s t : State} {w : InstrWord} (h : Begun s) (ht : dispatch w s = .next t) : Inv t := by
  cases hdec : decode w with
  | instr i => exact inv_exec h ((dispatch_instr hdec s).symm.trans ht)
  | invalidOpcode op =>
    cases (dispatch_invalid hdec s).symm.trans ht
    exact inv_of_completed h ⟨rfl, rfl, rfl, rfl, rfl⟩ h.memory rfl

theorem inv_step {s t : State} (h : Inv s) (ht : step s = .next t) : Inv t := by
  obtain ⟨i, hwait, hstep⟩ | ⟨-, -, hstep⟩ | ⟨w, rest, -, -, hstep⟩ := step_cases s
  · exact inv_exec (begun_of_waiting h hwait) (hstep.symm.trans ht)
  · cases hstep.symm.trans ht
    exact h
  · exact inv_dispatch (begun_beginStep h rest) (hstep.symm.trans ht)

/-! ## The invariant along a run -/

theorem inv_reset : Inv State.reset where
  memory := Memory.wf_reset
  stackPointer := fun _ => rfl
  unstarted := fun _ => ⟨rfl, rfl, rfl, rfl⟩
  waiting := fun i hi => by cases hi

/-- A delivery changes no field the invariant speaks of. -/
theorem inv_deliver {s : State} (d : Delivery) (h : Inv s) : Inv (s.deliver d) where
  memory := by simpa only [State.deliver_mem] using h.memory
  stackPointer := by simpa only [State.deliver_mode, State.deliver_regs] using h.stackPointer
  unstarted := by
    simpa only [State.deliver_mode, State.deliver_mem, State.deliver_waiting, State.deliver_status, State.deliver_sent] using h.unstarted
  waiting := by
    simpa only [State.deliver_waiting, State.deliver_status, State.deliver_outDec, State.deliver_outChar] using h.waiting

theorem inv_of_reachable {s : State} (h : Reachable s) : Inv s := by
  induction h with
  | reset => exact inv_reset
  | step _ ht ih => exact inv_step ih ht
  | deliver d _ ih => exact inv_deliver d ih

end Sys2Proof.Machine

namespace Sys2Proof

open Machine Safety

/-- Settles O30, by induction on the two lists. -/
theorem equalReadsEqualMemory : Obligations.EqualReadsEqualMemory := fun _ _ => Memory.eq_of_read_eq

/-- Settles O31: memory is empty, and nothing was begun. -/
theorem invariantHoldsAtReset : Obligations.InvariantHoldsAtReset := inv_reset

/-- Settles O32: the common part leads to an effect's start, a wait stays there, and each effect leads back to the invariant. -/
theorem stepKeepsInvariant : Obligations.StepKeepsInvariant := fun _ _ => inv_step

/-- Settles O33: a delivery reaches the host's own lists alone. -/
theorem deliveryKeepsInvariant : Obligations.DeliveryKeepsInvariant := fun s d =>
  ⟨inv_deliver d, s.deliver_regs d, s.deliver_mem d, s.deliver_mode d, s.deliver_status d, s.deliver_waiting d,
    s.deliver_outDec d, s.deliver_outChar d, s.deliver_sent d⟩

/-- Settles O34: the invariant holds of the state and of the one after it, which runs too. -/
theorem stackPointerZeroForEver : Obligations.StackPointerZeroForEver := by
  intro s hreach hrun
  have hinv := inv_of_reachable hreach
  refine ⟨hinv.stackPointer hrun, fun t ht => ?_⟩
  obtain ⟨t', ht', hrun'⟩ := step_running_mode hrun
  cases ht'.symm.trans ht
  exact (inv_step hinv ht).stackPointer hrun'

end Sys2Proof
end

section
/-! PROOFS. A store and the next step's `IR` load (spec/20_memory.md section 7, spec/70_reset_and_hazards.md section 3), with the lemmas
that say once how a stored number reads back. -/

namespace Sys2Proof.Machine

open Sys2Proof.Safety

/-! ## How a stored number reads back (R127 to R129, R109) -/

theorem sext32_toInt (a : Word) : (sext32 a).toInt = a.toInt := BitVec.toInt_signExtend_of_le (by decide)

theorem zext32_toInt (x : Word) : (zext32 x).toInt = (x.toNat : Int) := BitVec.toInt_setWidth' (by decide : 16 ≤ 32)

theorem zextByte32_toInt (c : Byte) : (zextByte32 c).toInt = (c.toNat : Int) := BitVec.toInt_setWidth' (by decide : 8 ≤ 32)

theorem read_memWrite_report (ea : Nat) (v : Cell) (s : State) (cond : Status) :
    ((s.memWrite ea v).report cond).mem.read ea = v := Memory.read_write_same s.mem ea v

/-- An instruction that stores a number completes, and its target reads as that number. -/
theorem exec_of_storedValue {i : Instr} {s : State} {a : Nat} {n : Int} (htarget : storeTarget i = some a)
    (hvalue : storedValue i s = some n) :
    ∃ t, exec i s = .next t ∧ t.waiting = none ∧ (t.mem.read a).toInt = n := by
  obtain ⟨addr, rfl, rfl | rfl | rfl | rfl | rfl⟩ := (storeTarget_eq_some_iff i a).1 htarget
  · cases hvalue
    exact ⟨_, rfl, rfl, by rw [read_memWrite_report, sext32_toInt]; rfl⟩
  · cases hvalue
    exact ⟨_, rfl, rfl, by rw [read_memWrite_report, zext32_toInt]; rfl⟩
  · cases hvalue
    exact ⟨_, rfl, rfl, by rw [read_memWrite_report, sext32_toInt]; rfl⟩
  · obtain ⟨v, hhead, rfl⟩ := Option.map_eq_some_iff.1 hvalue
    obtain ⟨rest, hin⟩ := List.head?_eq_some_iff.1 hhead
    exact ⟨_, withDec_cons hin _ _, rfl, by rw [read_memWrite_report]⟩
  · obtain ⟨c, hhead, rfl⟩ := Option.map_eq_some_iff.1 hvalue
    obtain ⟨rest, hin⟩ := List.head?_eq_some_iff.1 hhead
    exact ⟨_, withChar_cons hin _ _, rfl, by rw [read_memWrite_report, zextByte32_toInt]⟩

end Sys2Proof.Machine

namespace Sys2Proof

open Machine Safety

/-- Settles O59: the store leaves `PC` at its own target, which reads as the stored number when the next step loads `IR`. -/
theorem anyStoreSeenByNextIRLoad : Obligations.AnyStoreSeenByNextIRLoad := by
  intro s w v rest i n hwait hin hdec htarget hvalue
  obtain ⟨t, ht, hnone, hread⟩ := exec_of_storedValue htarget hvalue
  obtain ⟨t', ht', hpc, -, -, hmode, hinstr⟩ := exec_keepsControl i (s.beginStep (v :: rest))
  cases ht'.symm.trans ht
  obtain ⟨u, hu, hir, -⟩ := runningStepLoadsIRAndCountsPC t v rest (hmode.trans (beginStep_mode s _)) hnone
    (hinstr.trans (beginStep_instrIn s _))
  refine ⟨t, u, ?_, hu, ?_⟩
  · rw [step_word hwait hin, dispatch_instr hdec, ht]
  · rw [hir, hpc, hread]

/-- Settles O35: STR A is one of the stores, and a Running step's common part counts `PC` and leaves `A`. -/
theorem storeSeenByNextIRLoad : Obligations.StoreSeenByNextIRLoad := by
  intro s addr w rest hmode hwait hin haddr
  have hregs := beginStep_regs_of_running hmode (w :: rest)
  refine anyStoreSeenByNextIRLoad s _ w rest (.strA addr) s.regs.a.toInt hwait hin (decode_joinWord_opcode (.strA addr) addr) ?_ ?_
  · rw [hregs, u16_succ_toNat, ← haddr]; rfl
  · rw [storedValue, State.valA, hregs]

end Sys2Proof
end

section
/-! PROOFS. NOT, SHL, SHR X and the parameters' other readings (spec/41_unary.md rules R92 to R97 and R99, spec/43_arith_logic.md
rule R113). -/

namespace Sys2Proof.Machine

/-! ## NOT (R92, R94, R95) -/

/-- The flipped string loses its first digit, a 1: the result has a digit less than the operand can have. -/
theorem flipd_lt {u n : Nat} (h : u < 2 ^ (n + 1)) : flipd u < 2 ^ n := by
  rw [flipd_eq, blen_eq_size]
  obtain rfl | hu := Nat.eq_zero_or_pos u
  · simp
  · obtain ⟨k, hk⟩ := exists_size_eq_succ hu
    have hlow := (bounds_of_size_eq hk).1
    have hsize : u.size ≤ n + 1 := Nat.size_le.2 h
    have hpow : 2 ^ k ≤ 2 ^ n := Nat.pow_le_pow_right two_pos (by omega)
    have hpos : 0 < 2 ^ k := by positivity
    rw [hk, pow_succ]
    omega

/-- NOT's result fits a register. -/
theorem flipd_toNat_lt (a : Word) : flipd a.toNat < 65536 := (flipd_lt (n := 15) a.isLt).trans (by decide)

/-- NOT's result leaves bit 15 clear: read signed it is not negative. -/
theorem s16_flipd_nonneg (a : Word) : 0 ≤ (s16 (flipd a.toNat)).toInt := by
  have hlt := flipd_lt (n := 15) a.isLt
  rw [BitVec.toInt_pos_iff, s16_natCast_toNat (flipd_toNat_lt a)]
  omega

/-! ## SHL and SHR X (R96, R97, R99) -/

theorem s16_shiftLeft1_toInt (v : Int) : (s16 (shiftLeft1 v)).toInt = Int.bmod (2 * v) 65536 := by
  rw [s16_toInt, shiftLeft1, mul_comm]

theorem u16_shiftLeft1_toNat (v : Int) : ((u16 (shiftLeft1 v)).toNat : Int) = 2 * v % 65536 := by
  rw [u16_toNat, shiftLeft1, mul_comm]

/-- Half of `X` fits `X`. -/
theorem u16_shiftRight1_toNat (x : Word) : (u16 (shiftRight1 (x.toNat : Int))).toNat = x.toNat / 2 := by
  have hx := x.isLt
  have hhalf : shiftRight1 (x.toNat : Int) = ((x.toNat / 2 : Nat) : Int) := Int.shiftRight_eq_div_pow _ 1
  rw [hhalf, u16_natCast_toNat (by omega)]

theorem getLsbD_15_eq_false {x : Word} (h : x.toNat < 2 ^ 15) : x.getLsbD 15 = false := Nat.testBit_lt_two_pow h

/-! ## Masks (R112, R113) -/

@[simp] theorem zextByte16_toNat (m : Byte) : (zextByte16 m).toNat = m.toNat := BitVec.toNat_setWidth_of_le (by decide)

theorem digitAnd_toNat (u : Word) (m : Byte) : (digitAnd u m).toNat = u.toNat &&& m.toNat := by
  rw [digitAnd, BitVec.toNat_and, zextByte16_toNat]

theorem orResult_false_toNat (u : Word) (m : Byte) : (orResult false u m).toNat = u.toNat ||| m.toNat := by
  rw [orResult, BitVec.toNat_or, zextByte16_toNat]

/-- A register takes back its own signed value, or its own unsigned one, as it is. -/
@[simp] theorem s16_toInt_self (a : Word) : s16 a.toInt = a := BitVec.ofInt_toInt

@[simp] theorem u16_toNat_self (x : Word) : u16 (x.toNat : Int) = x := by
  rw [u16, BitVec.ofInt_natCast, BitVec.ofNat_toNat, BitVec.setWidth_eq]

end Sys2Proof.Machine

namespace Sys2Proof

open Machine

/-- Settles O36: the flipped digits have the value the arithmetic form gives, and one digit less than the register. -/
theorem notFlipsMinimalDigits : Obligations.NotFlipsMinimalDigits := fun addr s =>
  ⟨decode_joinWord_opcode (.notA addr) addr, decode_joinWord_opcode (.notX addr) addr,
    ⟨_, rfl, rfl, (s16_natCast_toNat (flipd_toNat_lt _)).trans (flipd_eq _), s16_flipd_nonneg _, writeA_report_registersOnly _ s⟩,
    ⟨_, rfl, rfl, (u16_natCast_toNat (flipd_toNat_lt _)).trans (flipd_eq _), writeX_report_registersOnly _ s⟩⟩

/-- Settles O37: the write narrows the doubled accumulator. -/
theorem shiftLeftAccumulator : Obligations.ShiftLeftAccumulator := fun addr s =>
  ⟨decode_joinWord_opcode (.shlA addr) addr, _, rfl, rfl, s16_shiftLeft1_toInt _, writeA_report_registersOnly _ s⟩

/-- Settles O38: the write to `X` narrows the doubled accumulator. -/
theorem shiftLeftIndexFromAccumulator : Obligations.ShiftLeftIndexFromAccumulator := fun addr s =>
  ⟨decode_joinWord_opcode (.shlX addr) addr, _, rfl, rfl, u16_shiftLeft1_toNat _, writeX_report_registersOnly _ s⟩

/-- Settles O40: half of `X` fits 15 bits. -/
theorem shiftRightIndex : Obligations.ShiftRightIndex := by
  intro addr s
  have hhalf := u16_shiftRight1_toNat s.regs.x
  have hx := s.regs.x.isLt
  exact ⟨decode_joinWord_opcode (.shrX addr) addr, _, rfl, rfl, hhalf, getLsbD_15_eq_false (lt_of_eq_of_lt hhalf (by omega)),
    writeX_report_registersOnly _ s⟩

/-- Settles O43: each reading of a parameter writes what it computes. -/
theorem parameterAlternatives : Obligations.ParameterAlternatives := by
  intro s m
  have hdouble : (u16 (shiftLeft1 s.valX)).toNat = 2 * s.regs.x.toNat % 65536 := by
    have h := u16_shiftLeft1_toNat s.valX
    rw [State.valX] at h ⊢
    omega
  refine ⟨rfl, rfl, u16_shiftLeft1_toNat _, s16_shiftLeft1_toInt _, hdouble, rfl, ?_, ?_⟩
  · rw [orA, State.writeA_regs, s16_toInt_self, orResult_false_toNat]
  · rw [orX, State.writeX_regs, u16_toNat_self, orResult_false_toNat]

end Sys2Proof
end

section
/-! PROOFS. AND and OR with a delivered mask, and the sums' 16-bit form (spec/43_arith_logic.md rules R111 to R121). -/

namespace Sys2Proof.Machine

open Sys2Proof.Safety

/-! ## AND and OR (R112, R113, R118 to R121) -/

theorem digitAnd_toNat_le (u : Word) (m : Byte) : (digitAnd u m).toNat ≤ 255 := by
  rw [digitAnd_toNat]
  exact Nat.and_le_right.trans (Nat.le_of_lt_succ m.isLt)

/-- The masked accumulator is the same number read signed: its sign bit is clear. -/
theorem digitAnd_toInt (u : Word) (m : Byte) : (digitAnd u m).toInt = (digitAnd u m).toNat :=
  BitVec.toInt_eq_toNat_of_lt (by have := digitAnd_toNat_le u m; omega)

/-- What a register instruction with a mask answers once the mask is delivered: `A` takes its low byte under the mask, the mask is
taken, and that is all. -/
theorem withMask_andA_spec {s : State} {m : Byte} {rest : List Byte} (h : s.maskIn = m :: rest) (i : Instr) :
    ∃ t : State, s.withMask i andA = .next t ∧ t.regs = { s.regs with a := t.regs.a } ∧ t.regs.a = digitAnd s.regs.a m ∧
      t.maskIn = rest ∧ RegistersOnly { s with maskIn := rest } t :=
  ⟨_, withMask_cons h i andA, rfl, s16_toInt_self _, rfl, writeA_report_registersOnly _ _⟩

theorem withMask_andX_spec {s : State} {m : Byte} {rest : List Byte} (h : s.maskIn = m :: rest) (i : Instr) :
    ∃ t : State, s.withMask i andX = .next t ∧ t.regs = { s.regs with x := t.regs.x } ∧ t.regs.x = digitAnd s.regs.x m ∧
      t.maskIn = rest ∧ RegistersOnly { s with maskIn := rest } t :=
  ⟨_, withMask_cons h i andX, rfl, u16_toNat_self _, rfl, writeX_report_registersOnly _ _⟩

/-- Under the default `OR_IS_AND`, OR's effect is AND's (R113). -/
theorem exec_orA (addr : Word) (s : State) : exec (.orA addr) s = s.withMask (.orA addr) andA := rfl

theorem exec_orX (addr : Word) (s : State) : exec (.orX addr) s = s.withMask (.orX addr) andX := rfl

/-! ## Sums in 16-bit arithmetic (R111; D8) -/

/-- Narrowing a cell's signed value keeps its low 16 bits. -/
theorem s16_toInt_cell (c : Cell) : s16 c.toInt = c.truncate 16 := BitVec.signExtend_eq_setWidth_of_le c (by decide)

theorem s16_add (v w : Int) : s16 (v + w) = s16 v + s16 w := BitVec.ofInt_add v w

theorem s16_neg (v : Int) : s16 (-v) = -s16 v := BitVec.ofInt_neg

theorem s16_sub (v w : Int) : s16 (v - w) = s16 v - s16 w := by rw [sub_eq_add_neg, s16_add, s16_neg, BitVec.sub_eq_add_neg]

/-- Both narrowings to 16 bits give the same pattern; only its reading differs (R12). -/
theorem u16_eq_s16 (v : Int) : u16 v = s16 v := rfl

theorem s16_natCast_self (x : Word) : s16 (x.toNat : Int) = x := u16_toNat_self x

end Sys2Proof.Machine

namespace Sys2Proof

open Machine

/-- Settles O51: narrowing is a homomorphism, and a cell's signed value narrows to its low 16 bits. -/
theorem sumsUseLowHalfOfCell : Obligations.SumsUseLowHalfOfCell := by
  intro addr s t ht
  rw [exec_addA] at ht
  cases ht
  refine ⟨?_, fun u => ⟨fun hu => ?_, fun hu => ?_, fun hu => ?_⟩⟩
  · simp [s16_add, s16_toInt_cell]
  · rw [exec_addX] at hu
    cases hu
    simp [u16_eq_s16, s16_add, s16_toInt_cell, s16_natCast_self]
  · rw [exec_subA] at hu
    cases hu
    simp [s16_sub, s16_toInt_cell]
  · rw [exec_subX] at hu
    cases hu
    simp [u16_eq_s16, s16_sub, s16_toInt_cell, s16_natCast_self]

/-- Settles O52: the register takes its low byte under the mask, a number from 0 to 255. -/
theorem andWithDeliveredMask : Obligations.AndWithDeliveredMask := by
  intro addr s m rest hmask
  obtain ⟨t, ht, hregs, ha, hrest, honly⟩ := withMask_andA_spec hmask (.andA addr)
  obtain ⟨u, hu, hregs', hx, hrest', honly'⟩ := withMask_andX_spec hmask (.andX addr)
  have hle := digitAnd_toNat_le s.regs.a m
  refine ⟨decode_joinWord_opcode (.andA addr) addr, decode_joinWord_opcode (.andX addr) addr,
    ⟨t, ht, hregs, ?_, ?_, ?_, hrest, honly⟩, ⟨u, hu, hregs', ?_, ?_, hrest', honly'⟩⟩
  · rw [ha, digitAnd_toNat]
  · rw [ha, digitAnd_toInt]; omega
  · rw [ha, digitAnd_toInt]; omega
  · rw [hx, digitAnd_toNat]
  · rw [hx]; exact digitAnd_toNat_le _ _

/-- Settles O53: OR's effect is AND's. -/
theorem orComputesAnd : Obligations.OrComputesAnd := by
  intro addr s m rest hmask
  rw [exec_orA, exec_orX]
  obtain ⟨t, ht, hregs, ha, hrest, honly⟩ := withMask_andA_spec hmask (.orA addr)
  obtain ⟨u, hu, hregs', hx, hrest', honly'⟩ := withMask_andX_spec hmask (.orX addr)
  refine ⟨decode_joinWord_opcode (.orA addr) addr, decode_joinWord_opcode (.orX addr) addr,
    ⟨t, ht, hregs, ?_, hrest, honly⟩, ⟨u, hu, hregs', ?_, hrest', honly'⟩⟩
  · rw [ha, digitAnd_toNat]
  · rw [hx, digitAnd_toNat]

end Sys2Proof
end

section
/-! PROOFS. Loads and stores, and input and output (spec/44_load_store.md, spec/42_io.md rules R107 to R110), with the frame of a
store. -/

namespace Sys2Proof.Machine

open Sys2Proof.Safety

/-! ## The frame of a store (R45, R127 to R129) -/

theorem memWrite_report_sameMemoryBut (ea : Nat) (v : Cell) (s : State) (cond : Status) :
    SameMemoryBut ea s ((s.memWrite ea v).report cond) := fun a ha => Memory.read_write_other s.mem ea a v ha

theorem memWrite_report_storesOnly (ea : Nat) (v : Cell) (s : State) : StoresOnly ea s ((s.memWrite ea v).report .ok) :=
  ⟨⟨rfl, rfl⟩, rfl, rfl, memWrite_report_sameMemoryBut ea v s .ok, ⟨rfl, rfl, rfl, rfl⟩, rfl, rfl, rfl⟩

/-- STBYTE and STR A store the whole accumulator (R127, R129). -/
theorem memWrite_sext32_spec (ea : Nat) (s : State) : ∃ t : State, (s.memWrite ea (sext32 s.regs.a)).complete = .next t ∧
    (t.mem.read ea).toInt = s.regs.a.toInt ∧ StoresOnly ea s t :=
  ⟨_, rfl, by rw [read_memWrite_report, sext32_toInt], memWrite_report_storesOnly ea _ s⟩

/-- STR X stores `X` as the number it is (R128). -/
theorem memWrite_zext32_spec (ea : Nat) (s : State) : ∃ t : State, (s.memWrite ea (zext32 s.regs.x)).complete = .next t ∧
    (t.mem.read ea).toInt = (s.regs.x.toNat : Int) ∧ StoresOnly ea s t :=
  ⟨_, rfl, by rw [read_memWrite_report, zext32_toInt], memWrite_report_storesOnly ea _ s⟩

/-! ## A load of what was stored (R130) -/

/-- After a store that completed, LDR A takes the stored cell's low half to `A`. -/
theorem exec_ldrA_of_read {t : State} {addr : Word} {v : Cell} (h : t.mem.read (effAddr addr) = v) :
    ∃ u, exec (.ldrA addr) t = .next u ∧ u.regs = { t.regs with a := s16 v.toInt } := ⟨_, rfl, by rw [← h]; rfl⟩

theorem exec_ldrX_of_read {t : State} {addr : Word} {v : Cell} (h : t.mem.read (effAddr addr) = v) :
    ∃ u, exec (.ldrX addr) t = .next u ∧ u.regs = { t.regs with x := u16 v.toInt } := ⟨_, rfl, by rw [← h]; rfl⟩

/-! ## The low 8 bits of a cell (R110) -/

/-- The code CHARO sends is the cell's value modulo 256. -/
theorem trunc8_toNat (v : Cell) : ((trunc8 v).toNat : Int) = v.toInt % 256 := by
  rw [trunc8, BitVec.toNat_setWidth, BitVec.toInt_eq_toNat_cond]
  split <;> omega

end Sys2Proof.Machine

namespace Sys2Proof

open Machine

/-- Settles O55: LDBYTE writes what LDR A writes. -/
theorem loadByteMasksNothing : Obligations.LoadByteMasksNothing := fun addr s =>
  ⟨decode_joinWord_opcode (.ldbyte addr) addr, writeA_complete_spec _ s⟩

/-- Settles O56: each form stores its register's number. -/
theorem storeKeepsNumericValue : Obligations.StoreKeepsNumericValue := fun addr s =>
  ⟨decode_joinWord_opcode (.strA addr) addr, decode_joinWord_opcode (.strX addr) addr,
    memWrite_sext32_spec (effAddr addr) s, memWrite_zext32_spec (effAddr addr) s⟩

/-- Settles O57: STBYTE stores what STR A stores. -/
theorem storeByteMasksNothing : Obligations.StoreByteMasksNothing := fun addr s =>
  ⟨decode_joinWord_opcode (.stbyte addr) addr, memWrite_sext32_spec (effAddr addr) s⟩

/-- Settles O58: the stored number narrows to the pattern it was stored from, whichever register takes it. -/
theorem storeThenLoad : Obligations.StoreThenLoad := by
  intro addr s
  constructor
  · have hread := read_memWrite_report (effAddr addr) (sext32 s.regs.a) s .ok
    obtain ⟨u, hu, huregs⟩ := exec_ldrA_of_read hread
    obtain ⟨v, hv, hvregs⟩ := exec_ldrX_of_read hread
    rw [sext32_toInt, s16_toInt_self] at huregs
    rw [sext32_toInt, u16_eq_s16, s16_toInt_self] at hvregs
    exact ⟨_, u, v, rfl, hu, hv, huregs, hvregs⟩
  · have hread := read_memWrite_report (effAddr addr) (zext32 s.regs.x) s .ok
    obtain ⟨u, hu, huregs⟩ := exec_ldrX_of_read hread
    obtain ⟨v, hv, hvregs⟩ := exec_ldrA_of_read hread
    rw [zext32_toInt, u16_toNat_self] at huregs
    rw [zext32_toInt, s16_natCast_self] at hvregs
    exact ⟨_, u, v, rfl, hu, hv, huregs, hvregs⟩

/-- Settles O44: the delivered value is written whole. -/
theorem decimalInputStoresValue : Obligations.DecimalInputStoresValue := fun addr _ v _ hin =>
  ⟨decode_joinWord_opcode (.deci addr) addr, _, withDec_cons hin _ _, ⟨rfl, rfl⟩, read_memWrite_report _ v _ _,
    memWrite_report_sameMemoryBut _ v _ _, rfl, rfl, rfl, rfl, rfl, rfl, rfl, rfl, rfl⟩

/-- Settles O45: the addressed cell is sent as it is. -/
theorem decimalOutputSendsCell : Obligations.DecimalOutputSendsCell := fun addr _ =>
  ⟨decode_joinWord_opcode (.deco addr) addr, _, rfl, ⟨rfl, rfl⟩, rfl, rfl, rfl, rfl, rfl, fun _ => rfl, rfl, rfl, rfl, rfl⟩

/-- Settles O46: the code's zero extension reads as the code. -/
theorem characterInputStoresCode : Obligations.CharacterInputStoresCode := by
  intro addr s c rest hin
  refine ⟨decode_joinWord_opcode (.chari addr) addr, _, withChar_cons hin _ _, ⟨rfl, rfl⟩, ?_,
    memWrite_report_sameMemoryBut _ (zextByte32 c) _ _, rfl, rfl, rfl, rfl, rfl, rfl, rfl, rfl, rfl⟩
  rw [read_memWrite_report, zextByte32_toInt]

/-- Settles O47: the low 8 bits of the addressed cell are sent. -/
theorem characterOutputSendsLowByte : Obligations.CharacterOutputSendsLowByte := fun addr s =>
  ⟨decode_joinWord_opcode (.charo addr) addr, _, trunc8 (s.mem.read (effAddr addr)), rfl, ⟨rfl, rfl⟩, trunc8_toNat _, rfl, rfl, rfl,
    rfl, rfl, fun _ => rfl, rfl, rfl, rfl, rfl⟩

end Sys2Proof
end

section
/-! PROOFS. The decimal text of a cell (spec/42_io.md rule R108), with the lemmas that say once which characters its digits are and what
number they make. -/

namespace Sys2Proof.Machine

/-! ## Decimal digits -/

/-- The character of a digit is one of `0` to `9`, and its code is 48 more than the digit. -/
theorem digitChar_spec : ∀ n < 10, '0' ≤ Char.ofNat (48 + n) ∧ Char.ofNat (48 + n) ≤ '9' ∧ (Char.ofNat (48 + n)).toNat - 48 = n := by
  decide

theorem digitChar_ne_minus : ∀ n < 10, Char.ofNat (48 + n) ≠ '-' := by decide

theorem digitsValue_nil (acc : Nat) : digitsValue acc [] = some acc := rfl

/-- A digit's character multiplies the value so far by 10 and adds the digit. -/
theorem digitsValue_cons {n : Nat} (hn : n < 10) (acc : Nat) (cs : List Char) :
    digitsValue acc (Char.ofNat (48 + n) :: cs) = digitsValue (10 * acc + n) cs := by
  obtain ⟨hlow, hhigh, hval⟩ := digitChar_spec n hn
  rw [digitsValue, if_pos ⟨hlow, hhigh⟩, hval]

/-- A concatenation is read by going on with the second part. -/
theorem digitsValue_append (acc : Nat) (cs ds : List Char) :
    digitsValue acc (cs ++ ds) = (digitsValue acc cs).bind fun n => digitsValue n ds := by
  induction cs generalizing acc with
  | nil => rfl
  | cons c cs ih =>
    rw [List.cons_append, digitsValue, digitsValue]
    split
    · exact ih _
    · rfl

/-- With digits enough the digits of a number read back as that number. -/
theorem digitsValue_decimalDigits {f n : Nat} (h : n < 10 ^ f) (hf : 0 < f) : digitsValue 0 (decimalDigits f n) = some n := by
  induction f generalizing n with
  | zero => cases hf
  | succ f ih =>
    rw [decimalDigits]
    split
    next hn => rw [digitsValue_cons hn, digitsValue_nil, Nat.mul_zero, Nat.zero_add]
    next hn =>
      rw [pow_succ] at h
      have hf : 0 < f := Nat.pos_of_ne_zero fun h0 => by subst h0; omega
      rw [digitsValue_append, ih (by omega) hf, Option.bind_some, digitsValue_cons (Nat.mod_lt n (by decide)), digitsValue_nil,
        Nat.div_add_mod]

/-- The digits of a number begin with a digit, not with a sign. -/
theorem decimalDigits_succ_eq_cons (f n : Nat) : ∃ c cs, decimalDigits (f + 1) n = c :: cs ∧ c ≠ '-' := by
  induction f generalizing n with
  | zero =>
    rw [decimalDigits]
    split
    next hn => exact ⟨_, [], rfl, digitChar_ne_minus n hn⟩
    next => exact ⟨_, [], rfl, digitChar_ne_minus (n % 10) (Nat.mod_lt n (by decide))⟩
  | succ f ih =>
    rw [decimalDigits]
    split
    next hn => exact ⟨_, [], rfl, digitChar_ne_minus n hn⟩
    next =>
      obtain ⟨c, cs, hcs, hc⟩ := ih (n / 10)
      exact ⟨c, cs ++ [Char.ofNat (48 + n % 10)], by rw [hcs, List.cons_append], hc⟩

/-! ## Reading a decimal text (log 27) -/

/-- A sign and digits are read as the digits' negated value. -/
theorem decimalValue_minus_cons {c : Char} {cs : List Char} {n : Nat} (h : digitsValue 0 (c :: cs) = some n) :
    decimalValue ('-' :: c :: cs) = some (-(n : Int)) := by
  rw [decimalValue, h]
  rfl

/-- Digits with no sign before them are read as their value. -/
theorem decimalValue_cons {c : Char} {cs : List Char} {n : Nat} (hc : c ≠ '-') (h : digitsValue 0 (c :: cs) = some n) :
    decimalValue (c :: cs) = some (n : Int) := by
  unfold decimalValue
  split
  next heq => cases heq
  next heq => exact absurd (List.cons.inj heq).1 hc
  next heq => exact absurd (List.cons.inj heq).1 hc
  next heq =>
    rw [← heq, h]
    rfl

/-- A cell's magnitude has 10 digits at most. -/
theorem natAbs_toInt_lt (v : Cell) : v.toInt.natAbs < 10 ^ 10 := by
  have hlow : -2147483648 ≤ v.toInt := v.le_toInt
  have hhigh : v.toInt < 2147483648 := v.toInt_lt
  omega

end Sys2Proof.Machine

namespace Sys2Proof

open Machine

/-- Settles O48: the digits read back as the magnitude, and a sign stands before them exactly when the cell is negative. -/
theorem decimalTextReadsBack : Obligations.DecimalTextReadsBack := by
  intro v
  obtain ⟨c, cs, hdigits, hc⟩ := decimalDigits_succ_eq_cons 9 v.toInt.natAbs
  have hvalue := digitsValue_decimalDigits (natAbs_toInt_lt v) (by decide)
  rw [hdigits] at hvalue
  by_cases hneg : v.toInt < 0
  · have habs : -((v.toInt.natAbs : Nat) : Int) = v.toInt := by omega
    rw [decimalText, if_pos hneg, hdigits, decimalValue_minus_cons hvalue, habs]
    simp [hneg]
  · have habs : ((v.toInt.natAbs : Nat) : Int) = v.toInt := by omega
    rw [decimalText, if_neg hneg, hdigits, decimalValue_cons hc hvalue, habs]
    simp [hneg, hc]

end Sys2Proof
end
